-- ==== Sys2Proof/Word.lean ====
section
/-! DEFINITION. The word types of the block (spec/00_scope.md R10, R12, R13): every value of width
w is an unsigned integer below 2^w; nothing in the block is signed. -/

namespace Sys2Proof

/-- An 8-bit value: a general register, a timer, one byte of memory, an NN field (R10, R13). -/
abbrev Byte := BitVec 8

/-- A 16-bit value: I, PC, a call-stack entry, an opcode (R10, R13). -/
abbrev Word := BitVec 16

/-- The index of a general register V0 to VF: an X or Y field (R13, R21). -/
abbrev Reg := Fin 16

/-- The 16 key entries of a key vector, `true` = down (R34). -/
abbrev KeyVector := Vector Bool 16

/-- A duration or a wall-time reading in milliseconds, an exact rational, signed where the spec says
so (spec/46_control_plane.md R284, R285; the unit is the spec's decision D24). -/
abbrev Duration := Rat

end Sys2Proof
end

