-- ==== Sys2Proof/Syntax.lean ====
section
/-! DEFINITION. The abstract syntax: one constructor per row of spec/opcode_table.json, named `op`
followed by the row's hexadecimal pattern, which is the spec's canonical name of the instruction
(spec/30_encoding.md R99). Fields stand in the order X, Y, N / NN / NNN of R13. -/

namespace Sys2Proof

/-- The 35 instruction patterns of spec/30_encoding.md R94. -/
inductive Instr where
  /-- `00E0`: clear the framebuffer (spec/44_display.md R220). -/
  | op00E0
  /-- `00EE`: return from subroutine (spec/41_control_flow.md R143). -/
  | op00EE
  /-- `0NNN`: legacy machine-code call, ignored (R144); never the words 0x00E0 and 0x00EE (R95). -/
  | op0NNN (nnn : BitVec 12)
  /-- `1NNN`: jump (R145). -/
  | op1NNN (nnn : BitVec 12)
  /-- `2NNN`: call subroutine (R146). -/
  | op2NNN (nnn : BitVec 12)
  /-- `3XNN`: skip if VX equals NN (R148). -/
  | op3XNN (x : Reg) (nn : Byte)
  /-- `4XNN`: skip if VX does not equal NN (R149). -/
  | op4XNN (x : Reg) (nn : Byte)
  /-- `5XY0`: skip if VX equals VY (R150). -/
  | op5XY0 (x y : Reg)
  /-- `6XNN`: load immediate (spec/42_alu.md R171). -/
  | op6XNN (x : Reg) (nn : Byte)
  /-- `7XNN`: add immediate, no flag (R172). -/
  | op7XNN (x : Reg) (nn : Byte)
  /-- `8XY0`: copy register (R173). -/
  | op8XY0 (x y : Reg)
  /-- `8XY1`: OR, then VF reset (R174). -/
  | op8XY1 (x y : Reg)
  /-- `8XY2`: AND, then VF reset (R175). -/
  | op8XY2 (x y : Reg)
  /-- `8XY3`: XOR, then VF reset (R176). -/
  | op8XY3 (x y : Reg)
  /-- `8XY4`: add with carry out (R177). -/
  | op8XY4 (x y : Reg)
  /-- `8XY5`: VX minus VY, flag = no borrow (R178). -/
  | op8XY5 (x y : Reg)
  /-- `8XY6`: shift VX right by one; Y is decoded and ignored (R179, R93). -/
  | op8XY6 (x y : Reg)
  /-- `8XY7`: VY minus VX, flag = no borrow (R180). -/
  | op8XY7 (x y : Reg)
  /-- `8XYE`: shift VX left by one; Y is decoded and ignored (R181, R93). -/
  | op8XYE (x y : Reg)
  /-- `9XY0`: skip if VX does not equal VY (R151). -/
  | op9XY0 (x y : Reg)
  /-- `ANNN`: load I (spec/43_index_memory.md R200). -/
  | opANNN (nnn : BitVec 12)
  /-- `BNNN`: jump to NNN plus V0 (R147). -/
  | opBNNN (nnn : BitVec 12)
  /-- `CXNN`: random byte AND mask (R182). -/
  | opCXNN (x : Reg) (nn : Byte)
  /-- `DXYN`: draw an N-row sprite, N = 0 to 15 (R221). -/
  | opDXYN (x y : Reg) (n : Fin 16)
  /-- `EX9E`: skip if the key numbered by VX is down (spec/45_input_timers.md R240). -/
  | opEX9E (x : Reg)
  /-- `EXA1`: skip if the key numbered by VX is not down (R241). -/
  | opEXA1 (x : Reg)
  /-- `FX07`: read the delay timer (R242). -/
  | opFX07 (x : Reg)
  /-- `FX0A`: wait for a key press (R245). -/
  | opFX0A (x : Reg)
  /-- `FX15`: write the delay timer (R243). -/
  | opFX15 (x : Reg)
  /-- `FX18`: write the sound timer (R244). -/
  | opFX18 (x : Reg)
  /-- `FX1E`: add VX to I (R201). -/
  | opFX1E (x : Reg)
  /-- `FX29`: point I at the font glyph for VX (R202). -/
  | opFX29 (x : Reg)
  /-- `FX33`: store the BCD digits of VX (R203). -/
  | opFX33 (x : Reg)
  /-- `FX55`: store V0 to VX (R204). -/
  | opFX55 (x : Reg)
  /-- `FX65`: load V0 to VX (R205). -/
  | opFX65 (x : Reg)
  deriving DecidableEq, Repr

end Sys2Proof
end

