-- ==== Sys2Proof/WellFormed.lean ====
section
/-! DEFINITION. Which instruction terms are instructions. The field types already hold every range
(registers and N below 16, NN of 8 bits, NNN of 12 bits), so one check is left: spec/30_encoding.md
R95, the words 0x00E0 and 0x00EE are never `0NNN`. -/

namespace Sys2Proof

/-- The check of R95: a `0NNN` term does not carry the NNN of `00E0` or of `00EE`. -/
def Instr.wellFormed : Instr → Bool
  | .op0NNN nnn => nnn != 0x0E0#12 && nnn != 0x0EE#12
  | _ => true

end Sys2Proof
end

