-- ==== Sys2Proof/Decode.lean ====
section
/-! DEFINITION. Decoding and encoding (spec/30_encoding.md). `decode` is the nested match of R94,
total on all 65536 words; `decodeBytes` reads one big-endian word off any byte sequence (R69, R90);
`encode` is written from the patterns of R92 and R94. -/

namespace Sys2Proof

/-! ## Fields (R91) -/

/-- bits[15:12], the family. -/
def fieldFamily (w : Word) : Fin 16 := (w.extractLsb' 12 4).toFin

/-- X = bits[11:8]. -/
def fieldX (w : Word) : Reg := (w.extractLsb' 8 4).toFin

/-- Y = bits[7:4]. -/
def fieldY (w : Word) : Reg := (w.extractLsb' 4 4).toFin

/-- N = bits[3:0]. -/
def fieldN (w : Word) : Fin 16 := (w.extractLsb' 0 4).toFin

/-- NN = bits[7:0]. -/
def fieldNN (w : Word) : Byte := w.extractLsb' 0 8

/-- NNN = bits[11:0]. -/
def fieldNNN (w : Word) : BitVec 12 := w.extractLsb' 0 12

/-! ## Decoding -/

/-- Why bytes are no instruction. -/
inductive DecodeError where
  /-- "decoder found no matching instruction pattern" (R96, spec/60_exceptions.md R311). -/
  | invalidOpcode (opcode : Word)
  /-- Fewer than the two bytes every instruction has (R90); only `decodeBytes` answers it. -/
  | truncated
  deriving DecidableEq, Repr

/-- Family 0x0, by the whole word (R95). -/
def decodeFamily0 (w : Word) : Except DecodeError Instr :=
  if w = 0x00E0#16 then .ok .op00E0
  else if w = 0x00EE#16 then .ok .op00EE
  else .ok (.op0NNN (fieldNNN w))

/-- Families 0x5 and 0x9: bits[3:0] must be 0x0 (R94). -/
def decodeFamilyXY0 (w : Word) (i : Instr) : Except DecodeError Instr :=
  if fieldN w = 0 then .ok i else .error (.invalidOpcode w)

/-- Family 0x8, by bits[3:0] (R94). -/
def decodeFamily8 (w : Word) : Except DecodeError Instr :=
  match (fieldN w).val with
  | 0x0 => .ok (.op8XY0 (fieldX w) (fieldY w))
  | 0x1 => .ok (.op8XY1 (fieldX w) (fieldY w))
  | 0x2 => .ok (.op8XY2 (fieldX w) (fieldY w))
  | 0x3 => .ok (.op8XY3 (fieldX w) (fieldY w))
  | 0x4 => .ok (.op8XY4 (fieldX w) (fieldY w))
  | 0x5 => .ok (.op8XY5 (fieldX w) (fieldY w))
  | 0x6 => .ok (.op8XY6 (fieldX w) (fieldY w))
  | 0x7 => .ok (.op8XY7 (fieldX w) (fieldY w))
  | 0xE => .ok (.op8XYE (fieldX w) (fieldY w))
  | _ => .error (.invalidOpcode w)

/-- Family 0xE, by bits[7:0] (R94). -/
def decodeFamilyE (w : Word) : Except DecodeError Instr :=
  if fieldNN w = 0x9E#8 then .ok (.opEX9E (fieldX w))
  else if fieldNN w = 0xA1#8 then .ok (.opEXA1 (fieldX w))
  else .error (.invalidOpcode w)

/-- Family 0xF, by bits[7:0] (R94). -/
def decodeFamilyF (w : Word) : Except DecodeError Instr :=
  if fieldNN w = 0x07#8 then .ok (.opFX07 (fieldX w))
  else if fieldNN w = 0x0A#8 then .ok (.opFX0A (fieldX w))
  else if fieldNN w = 0x15#8 then .ok (.opFX15 (fieldX w))
  else if fieldNN w = 0x18#8 then .ok (.opFX18 (fieldX w))
  else if fieldNN w = 0x1E#8 then .ok (.opFX1E (fieldX w))
  else if fieldNN w = 0x29#8 then .ok (.opFX29 (fieldX w))
  else if fieldNN w = 0x33#8 then .ok (.opFX33 (fieldX w))
  else if fieldNN w = 0x55#8 then .ok (.opFX55 (fieldX w))
  else if fieldNN w = 0x65#8 then .ok (.opFX65 (fieldX w))
  else .error (.invalidOpcode w)

/-- The complete decode of one word (R94, R96, R122): outer match on bits[15:12], inner match on the
whole word, bits[3:0] or bits[7:0]; an unmatched word is `invalidOpcode` at every level (R98). -/
def decode (w : Word) : Except DecodeError Instr :=
  match (fieldFamily w).val with
  | 0x0 => decodeFamily0 w
  | 0x1 => .ok (.op1NNN (fieldNNN w))
  | 0x2 => .ok (.op2NNN (fieldNNN w))
  | 0x3 => .ok (.op3XNN (fieldX w) (fieldNN w))
  | 0x4 => .ok (.op4XNN (fieldX w) (fieldNN w))
  | 0x5 => decodeFamilyXY0 w (.op5XY0 (fieldX w) (fieldY w))
  | 0x6 => .ok (.op6XNN (fieldX w) (fieldNN w))
  | 0x7 => .ok (.op7XNN (fieldX w) (fieldNN w))
  | 0x8 => decodeFamily8 w
  | 0x9 => decodeFamilyXY0 w (.op9XY0 (fieldX w) (fieldY w))
  | 0xA => .ok (.opANNN (fieldNNN w))
  | 0xB => .ok (.opBNNN (fieldNNN w))
  | 0xC => .ok (.opCXNN (fieldX w) (fieldNN w))
  | 0xD => .ok (.opDXYN (fieldX w) (fieldY w) (fieldN w))
  | 0xE => decodeFamilyE w
  | _ => decodeFamilyF w

/-- The opcode two bytes make, the byte at the lower address in bits[15:8] (R69, R120). -/
def wordOfBytes (hi lo : Byte) : Word := hi ++ lo

/-- The byte of an opcode at the lower address. -/
def highByte (w : Word) : Byte := w.extractLsb' 8 8

/-- The byte of an opcode at the higher address. -/
def lowByte (w : Word) : Byte := w.extractLsb' 0 8

/-- One instruction off the front of a byte sequence, and the rest; always 2 bytes (R90). -/
def decodeBytes : List Byte → Except DecodeError (Instr × List Byte)
  | hi :: lo :: rest =>
    match decode (wordOfBytes hi lo) with
    | .ok i => .ok (i, rest)
    | .error e => .error e
  | _ => .error .truncated

/-- The host's question: the instruction the decoder reads from a table row's word of `nbits` bits
(every bit above them 0), laid out as R69 stores it. -/
def decodeTableWord (nbits w : Nat) : Option Instr :=
  let op : Word := BitVec.ofNat 16 (w % 2 ^ nbits)
  match decodeBytes [highByte op, lowByte op] with
  | .ok (i, _) => some i
  | .error _ => none

/-! ## Encoding -/

/-- Format `nnn`: `ffff nnnn nnnn nnnn` (R92). -/
def encodeNNN (f : BitVec 4) (nnn : BitVec 12) : Word := f ++ nnn

/-- Formats `xnn` and `xss`: `ffff xxxx nnnn nnnn` (R92). -/
def encodeXNN (f : BitVec 4) (x : Reg) (nn : Byte) : Word := f ++ ((BitVec.ofFin x : BitVec 4) ++ nn)

/-- Formats `xys` and `xyn`: `ffff xxxx yyyy nnnn` (R92). -/
def encodeXYN (f : BitVec 4) (x y : Reg) (n : Fin 16) : Word :=
  f ++ ((BitVec.ofFin x : BitVec 4) ++ ((BitVec.ofFin y : BitVec 4) ++ (BitVec.ofFin n : BitVec 4)))

/-- The word of an instruction, from the patterns of R92 and R94. -/
def encode : Instr → Word
  | .op00E0 => 0x00E0#16
  | .op00EE => 0x00EE#16
  | .op0NNN nnn => encodeNNN 0x0#4 nnn
  | .op1NNN nnn => encodeNNN 0x1#4 nnn
  | .op2NNN nnn => encodeNNN 0x2#4 nnn
  | .op3XNN x nn => encodeXNN 0x3#4 x nn
  | .op4XNN x nn => encodeXNN 0x4#4 x nn
  | .op5XY0 x y => encodeXYN 0x5#4 x y 0x0
  | .op6XNN x nn => encodeXNN 0x6#4 x nn
  | .op7XNN x nn => encodeXNN 0x7#4 x nn
  | .op8XY0 x y => encodeXYN 0x8#4 x y 0x0
  | .op8XY1 x y => encodeXYN 0x8#4 x y 0x1
  | .op8XY2 x y => encodeXYN 0x8#4 x y 0x2
  | .op8XY3 x y => encodeXYN 0x8#4 x y 0x3
  | .op8XY4 x y => encodeXYN 0x8#4 x y 0x4
  | .op8XY5 x y => encodeXYN 0x8#4 x y 0x5
  | .op8XY6 x y => encodeXYN 0x8#4 x y 0x6
  | .op8XY7 x y => encodeXYN 0x8#4 x y 0x7
  | .op8XYE x y => encodeXYN 0x8#4 x y 0xE
  | .op9XY0 x y => encodeXYN 0x9#4 x y 0x0
  | .opANNN nnn => encodeNNN 0xA#4 nnn
  | .opBNNN nnn => encodeNNN 0xB#4 nnn
  | .opCXNN x nn => encodeXNN 0xC#4 x nn
  | .opDXYN x y n => encodeXYN 0xD#4 x y n
  | .opEX9E x => encodeXNN 0xE#4 x 0x9E#8
  | .opEXA1 x => encodeXNN 0xE#4 x 0xA1#8
  | .opFX07 x => encodeXNN 0xF#4 x 0x07#8
  | .opFX0A x => encodeXNN 0xF#4 x 0x0A#8
  | .opFX15 x => encodeXNN 0xF#4 x 0x15#8
  | .opFX18 x => encodeXNN 0xF#4 x 0x18#8
  | .opFX1E x => encodeXNN 0xF#4 x 0x1E#8
  | .opFX29 x => encodeXNN 0xF#4 x 0x29#8
  | .opFX33 x => encodeXNN 0xF#4 x 0x33#8
  | .opFX55 x => encodeXNN 0xF#4 x 0x55#8
  | .opFX65 x => encodeXNN 0xF#4 x 0x65#8

/-! ## The opcode table as data (R94, R98) -/

/-- One row of spec/opcode_table.json: a word w matches when `w &&& mask = pattern` and w is none of
the row's excluded words. -/
structure TableRow where
  /-- The row's mnemonic. -/
  mnemonic : String
  /-- The bits the row fixes. -/
  mask : Word
  /-- Their values. -/
  pattern : Word
  /-- Words of the pattern that are other rows' (R95). -/
  excludes : List Word

/-- spec/opcode_table.json, row by row. -/
def opcodeTable : List TableRow :=
  [⟨"00E0", 0xFFFF#16, 0x00E0#16, []⟩, ⟨"00EE", 0xFFFF#16, 0x00EE#16, []⟩,
   ⟨"0NNN", 0xF000#16, 0x0000#16, [0x00E0#16, 0x00EE#16]⟩,
   ⟨"1NNN", 0xF000#16, 0x1000#16, []⟩, ⟨"2NNN", 0xF000#16, 0x2000#16, []⟩,
   ⟨"3XNN", 0xF000#16, 0x3000#16, []⟩, ⟨"4XNN", 0xF000#16, 0x4000#16, []⟩,
   ⟨"5XY0", 0xF00F#16, 0x5000#16, []⟩, ⟨"6XNN", 0xF000#16, 0x6000#16, []⟩,
   ⟨"7XNN", 0xF000#16, 0x7000#16, []⟩]
  ++ [⟨"8XY0", 0xF00F#16, 0x8000#16, []⟩, ⟨"8XY1", 0xF00F#16, 0x8001#16, []⟩,
   ⟨"8XY2", 0xF00F#16, 0x8002#16, []⟩, ⟨"8XY3", 0xF00F#16, 0x8003#16, []⟩,
   ⟨"8XY4", 0xF00F#16, 0x8004#16, []⟩, ⟨"8XY5", 0xF00F#16, 0x8005#16, []⟩,
   ⟨"8XY6", 0xF00F#16, 0x8006#16, []⟩, ⟨"8XY7", 0xF00F#16, 0x8007#16, []⟩,
   ⟨"8XYE", 0xF00F#16, 0x800E#16, []⟩]
  ++ [⟨"9XY0", 0xF00F#16, 0x9000#16, []⟩, ⟨"ANNN", 0xF000#16, 0xA000#16, []⟩,
   ⟨"BNNN", 0xF000#16, 0xB000#16, []⟩, ⟨"CXNN", 0xF000#16, 0xC000#16, []⟩,
   ⟨"DXYN", 0xF000#16, 0xD000#16, []⟩, ⟨"EX9E", 0xF0FF#16, 0xE09E#16, []⟩,
   ⟨"EXA1", 0xF0FF#16, 0xE0A1#16, []⟩]
  ++ [⟨"FX07", 0xF0FF#16, 0xF007#16, []⟩, ⟨"FX0A", 0xF0FF#16, 0xF00A#16, []⟩,
   ⟨"FX15", 0xF0FF#16, 0xF015#16, []⟩, ⟨"FX18", 0xF0FF#16, 0xF018#16, []⟩,
   ⟨"FX1E", 0xF0FF#16, 0xF01E#16, []⟩, ⟨"FX29", 0xF0FF#16, 0xF029#16, []⟩,
   ⟨"FX33", 0xF0FF#16, 0xF033#16, []⟩, ⟨"FX55", 0xF0FF#16, 0xF055#16, []⟩,
   ⟨"FX65", 0xF0FF#16, 0xF065#16, []⟩]

/-- Whether a word matches a row. -/
def rowMatches (w : Word) (r : TableRow) : Bool :=
  w &&& r.mask == r.pattern && !r.excludes.contains w

/-- The mnemonic of an instruction's row in spec/opcode_table.json. -/
def Instr.mnemonic : Instr → String
  | .op00E0 => "00E0"
  | .op00EE => "00EE"
  | .op0NNN _ => "0NNN"
  | .op1NNN _ => "1NNN"
  | .op2NNN _ => "2NNN"
  | .op3XNN _ _ => "3XNN"
  | .op4XNN _ _ => "4XNN"
  | .op5XY0 _ _ => "5XY0"
  | .op6XNN _ _ => "6XNN"
  | .op7XNN _ _ => "7XNN"
  | .op8XY0 _ _ => "8XY0"
  | .op8XY1 _ _ => "8XY1"
  | .op8XY2 _ _ => "8XY2"
  | .op8XY3 _ _ => "8XY3"
  | .op8XY4 _ _ => "8XY4"
  | .op8XY5 _ _ => "8XY5"
  | .op8XY6 _ _ => "8XY6"
  | .op8XY7 _ _ => "8XY7"
  | .op8XYE _ _ => "8XYE"
  | .op9XY0 _ _ => "9XY0"
  | .opANNN _ => "ANNN"
  | .opBNNN _ => "BNNN"
  | .opCXNN _ _ => "CXNN"
  | .opDXYN _ _ _ => "DXYN"
  | .opEX9E _ => "EX9E"
  | .opEXA1 _ => "EXA1"
  | .opFX07 _ => "FX07"
  | .opFX0A _ => "FX0A"
  | .opFX15 _ => "FX15"
  | .opFX18 _ => "FX18"
  | .opFX1E _ => "FX1E"
  | .opFX29 _ => "FX29"
  | .opFX33 _ => "FX33"
  | .opFX55 _ => "FX55"
  | .opFX65 _ => "FX65"

/-- The flat-table reading of R98: the mnemonic of the first row a word matches. -/
def flatDecode (w : Word) : Option String :=
  (opcodeTable.find? (rowMatches w)).map (·.mnemonic)

/-- The same verdict read off the nested decode. -/
def nestedDecode (w : Word) : Option String :=
  match decode w with
  | .ok i => some i.mnemonic
  | .error _ => none

end Sys2Proof
end

