-- ==== Sys2Proof/Config.lean ====
section
/-! DEFINITION. The construction parameters of an engine (spec/00_scope.md R11), which a model takes
as arguments, and the free values: what the outside world answers on the host ports of R9.

The parameters are fixed when an engine is constructed; the machine's State carries them in a field
that no step writes, so a statement about every state is a statement about every parameter value.
The free values are constants without a body (spec/93_implementation_defined.md U15, U18, U21): no
proof can see what they are. -/

namespace Sys2Proof

/-- `FONT_WRITE` (R11, R63; decision D5): what a store to 0x000-0x04F does. -/
inductive FontWrite where
  /-- The store raises `MemoryFault` of kind `FontWrite`: the default. -/
  | fault
  /-- The font bytes are overwritten like any others. -/
  | write
  deriving DecidableEq, Repr

/-- `I_OVERFLOW` (R11, R201; decision D6): what `FX1E` does when the sum passes 0xFFFF. -/
inductive IOverflow where
  /-- `FX1E` raises `IOverflow`: the default. -/
  | fault
  /-- The sum is stored modulo 65536. -/
  | wrap
  deriving DecidableEq, Repr

/-- The parameters of R11, fixed at construction. -/
structure Config where
  /-- `FB_W`, the framebuffer's width (R33; D1). -/
  fbWidth : Nat
  /-- `FB_H`, the framebuffer's height (R33; D1). -/
  fbHeight : Nat
  /-- `FONT`, the 80 font bytes at 0x000-0x04F (R66; D2). -/
  font : Vector Byte 80
  /-- `FONT_WRITE` (R63; D5). -/
  fontWrite : FontWrite
  /-- `I_OVERFLOW` (R201; D6). -/
  iOverflow : IOverflow
  /-- `STACK_DEPTH`: `none` is `unbounded` (R31, R142; D7). -/
  stackDepth : Option Nat
  /-- `OPF_INIT`: `opcodes_per_frame` at construction (R37; D18). -/
  opfInit : BitVec 32
  /-- `CMD_FIFO_DEPTH`: `none` is `unbounded` (R260; D22). -/
  cmdFifoDepth : Option Nat
  deriving DecidableEq, Repr

/-- What the host returns on `rom_read` for a path (spec/46_control_plane.md R264; D37). -/
inductive RomReply where
  /-- The bytes of the file. -/
  | bytes (b : List Byte)
  /-- The read failed; the host's error value is opaque to the block (R318). -/
  | ioError (e : String)
  deriving DecidableEq, Repr, Inhabited

/-- The n-th free draw from `rand_in`: any byte (R182, R124; D21, U15). -/
opaque Config.freeRand : Nat → Byte

/-- The n-th free advance of the host's wall clock; its magnitude is taken, since `clock_in` never
decreases (R295; D33, U18). -/
opaque Config.freeClockAdvance : Nat → Duration

/-- The n-th free measured sleep; its magnitude is taken, since `slept >= 0` (R295; D33, U18). -/
opaque Config.freeSlept : Nat → Duration

/-- The host's free answer to the n-th `rom_read`, for a path (R264; D37, U21). -/
opaque Config.freeRomReply : Nat → String → RomReply

end Sys2Proof
end

