-- ==== Sys2Proof/Machine/Defaults.lean ====
section
/-! DEFINITION. The default parameter values of spec/00_scope.md R11: what `State.reset` is
constructed with. Each is a default that can be swapped (spec/93_implementation_defined.md Part 3),
not a fact about the reference engine. -/

namespace Sys2Proof.Machine

/-- The default `FONT`, glyph g at 5g to 5g+4. PRESUMED (notes/assumptions/2.md): the usual CHIP-8
font, which spec/20_memory.md R66 gives from general knowledge. -/
def defaultFont : Vector Byte 80 :=
  ⟨⟨[0xF0#8, 0x90#8, 0x90#8, 0x90#8, 0xF0#8] ++ [0x20#8, 0x60#8, 0x20#8, 0x20#8, 0x70#8]
    ++ [0xF0#8, 0x10#8, 0xF0#8, 0x80#8, 0xF0#8] ++ [0xF0#8, 0x10#8, 0xF0#8, 0x10#8, 0xF0#8]
    ++ [0x90#8, 0x90#8, 0xF0#8, 0x10#8, 0x10#8] ++ [0xF0#8, 0x80#8, 0xF0#8, 0x10#8, 0xF0#8]
    ++ [0xF0#8, 0x80#8, 0xF0#8, 0x90#8, 0xF0#8] ++ [0xF0#8, 0x10#8, 0x20#8, 0x40#8, 0x40#8]
    ++ [0xF0#8, 0x90#8, 0xF0#8, 0x90#8, 0xF0#8] ++ [0xF0#8, 0x90#8, 0xF0#8, 0x10#8, 0xF0#8]
    ++ [0xF0#8, 0x90#8, 0xF0#8, 0x90#8, 0x90#8] ++ [0xE0#8, 0x90#8, 0xE0#8, 0x90#8, 0xE0#8]
    ++ [0xF0#8, 0x80#8, 0x80#8, 0x80#8, 0xF0#8] ++ [0xE0#8, 0x90#8, 0x90#8, 0x90#8, 0xE0#8]
    ++ [0xF0#8, 0x80#8, 0xF0#8, 0x80#8, 0xF0#8] ++ [0xF0#8, 0x80#8, 0xF0#8, 0x80#8, 0x80#8]⟩, rfl⟩

/-- The defaults of R11. `FB_W` × `FB_H` = 64 × 32 is PRESUMED (notes/assumptions/1.md); `OPF_INIT` has
no value in the spec, and 1 is a DESIGN CHOICE (notes/assumptions/5.md); `FONT_WRITE`, `I_OVERFLOW`,
`STACK_DEPTH` and `CMD_FIFO_DEPTH` are the spec's own defaults (notes/assumptions/6.md). -/
def defaultConfig : Config where
  fbWidth := 64
  fbHeight := 32
  font := defaultFont
  fontWrite := .fault
  iOverflow := .fault
  stackDepth := none
  opfInit := 1#32
  cmdFifoDepth := none

end Sys2Proof.Machine
end

