-- ==== Sys2Proof/Machine/State.lean ====
section
/-! DEFINITION. The state of the block as plain data (spec/10_state.md), the reasons a step can stop,
and the state after reset (spec/70_reset_and_hazards.md R350).

`MachineState` holds what a snapshot copies (R290); `State` adds the key wait, the scheduler's own
registers (R43, R276), the state shared with the outside world (R45), the construction parameters
(spec/00_scope.md R11) and the host ports (R9). -/

namespace Sys2Proof.Machine

/-! ## Errors (spec/60_exceptions.md) -/

/-- The kind of a `MemoryFault` (R313). -/
inductive FaultKind where
  /-- An access outside 0x000-0xFFF (R61). -/
  | outOfRange
  /-- A store to 0x000-0x04F under `FONT_WRITE = fault` (R63). -/
  | fontWrite
  deriving DecidableEq, Repr

/-- The terminal errors of the `error` register (spec/10_state.md R41; R311 to R318), each with the
fields it records. -/
inductive EngineError where
  /-- `InvalidOpcode` (R311): the decode of an illegal word. -/
  | invalidOpcode (opcode : Word) (address : Word)
  /-- `InvalidReturn` (R312): `00EE` on an empty call stack. -/
  | invalidReturn (address : Word)
  /-- `RomTooLarge` (R317): a `LoadRom` of more than 3584 bytes. -/
  | romTooLarge (path : String) (size : Nat) (allowed : Nat)
  /-- `InvalidRom` (R318): the host's ROM read failed. -/
  | invalidRom (path : String) (specificError : String)
  /-- `MemoryFault` (R313): `opcode` is `none` when the fault is in the fetch itself; `target` is the
  lowest offending byte address, an exact integer. -/
  | memoryFault (opcode : Option Word) (address : Word) (target : Nat) (kind : FaultKind)
  /-- `StackOverflow` (R314): a `2NNN` on a full stack of finite `STACK_DEPTH`. -/
  | stackOverflow (address : Word)
  /-- `IOverflow` (R315): `FX1E` past 0xFFFF under `I_OVERFLOW = fault`. -/
  | iOverflow (opcode : Word) (address : Word)
  /-- `KeyIndexFault` (R316): `EX9E` or `EXA1` with VX > 0xF. -/
  | keyIndexFault (opcode : Word) (address : Word) (key : Byte)
  deriving DecidableEq, Repr

/-! ## Parts of the state -/

/-- Memory: the bytes that differ from the reset contents, by address, addresses strictly rising and
no entry equal to what an unlisted address reads as (`Memory.wf` in Machine/Ops.lean). -/
abbrev Memory := List Host.Cell

/-- The framebuffer: `FB_H` rows of `FB_W` pixels, `true` = on; row y is entry y, column x is entry x
of its row (spec/10_state.md R33). -/
abbrev Framebuffer := List (List Bool)

/-- A control command (spec/46_control_plane.md R261). -/
inductive Command where
  /-- `SetRunning(b)` (R262). -/
  | setRunning (b : Bool)
  /-- `StepFrame` (R263). -/
  | stepFrame
  /-- `LoadRom(path)` (R264). -/
  | loadRom (path : String)
  /-- `SetOpcodesPerFrame(u32)` (R265). -/
  | setOpcodesPerFrame (n : BitVec 32)
  /-- `SetKeysDown([bool;16])` (R266). -/
  | setKeysDown (keys : KeyVector)
  /-- `Exit` (R267). -/
  | exit
  deriving DecidableEq, Repr

/-- A pending `FX0A` (spec/10_state.md R44): the destination register, the key vector of the last poll
and the number of instructions of the batch still to execute. -/
structure KeyWait where
  /-- The destination register index. -/
  x : Reg
  /-- The key vector of the last poll, or of the entry. -/
  prevKeys : KeyVector
  /-- The instructions of the batch still to execute once the wait completes. -/
  remaining : Nat
  deriving DecidableEq, Repr

/-- Where the scheduler stands in its loop (spec/46_control_plane.md R276): the steps of one iteration,
made explicit so that one `step` of the model is one instruction or one scheduler action. -/
inductive Phase where
  /-- Before the iteration's clock reading (R277). -/
  | iterationStart
  /-- In step 1, the drain (R278). -/
  | draining
  /-- At step 2, the terminal check, and the choice of step 3 (R280, R281, R282). -/
  | deciding
  /-- In step 3, inside `run_frame`'s loop (R281). -/
  | batch
  /-- At steps 4 to 6 (R284, R285, R286). -/
  | pacing
  /-- The loop has terminated (R280). -/
  | terminated
  deriving DecidableEq, Repr

/-- A host port the block reads (spec/00_scope.md R9): the answers the outside world has already put
there, oldest first, and how many answers were taken. Past the last answer a read is a free value.
The model's own form of a free input (notes/assumptions/9.md). -/
structure Port (α : Type) where
  /-- Answers already supplied, oldest first. -/
  pending : List α
  /-- Answers taken so far: the index of the next free value. -/
  taken : Nat
  deriving DecidableEq, Repr

/-- A host port with a request half and an answer half (spec/00_scope.md R9: `rom_read`, path in and
bytes or I/O error out; `sleep_out`, requested duration out and measured time in): the value the block
last put out, beside the answers. -/
structure RequestPort (ρ α : Type) extends Port α where
  /-- The request the block last put out; `none` before the first. -/
  request : Option ρ
  deriving DecidableEq, Repr

/-! ## The state -/

/-- The fields of the machine state that a snapshot copies (spec/10_state.md, R290). -/
structure MachineState where
  /-- Memory, 4096 bytes (R35, spec/20_memory.md R60). -/
  mem : Memory
  /-- V0 to VF (R21); VF is `v[15]` (R22). -/
  v : Vector Byte 16
  /-- The index register I, never masked to 12 bits (R25, R26). -/
  i : Word
  /-- The program counter (R27). -/
  pc : Word
  /-- The call stack, the top of the stack last (R31, R142). -/
  callStack : List Word
  /-- The delay timer DT (R32). -/
  dt : Byte
  /-- The sound timer ST (R32). -/
  st : Byte
  /-- The framebuffer FB (R33). -/
  fb : Framebuffer
  /-- The key latch Keys (R34). -/
  keys : KeyVector
  /-- `rom_name` (R36). -/
  romName : Option String
  /-- `rom_size` (R36). -/
  romSize : Option Nat
  /-- `opcodes_per_frame`, a u32 (R37). -/
  opcodesPerFrame : BitVec 32
  /-- `running` (R38). -/
  running : Bool
  /-- `step_once` (R39). -/
  stepOnce : Bool
  /-- `exit_requested` (R40). -/
  exitRequested : Bool
  /-- `error` (R41). -/
  error : Option EngineError
  /-- `current_frame` (R42). -/
  currentFrame : Nat
  /-- `actual_frame_time` (R42). -/
  actualFrameTime : Duration
  /-- `frame_time_with_sleep` (R42). -/
  frameTimeWithSleep : Duration
  /-- `fps` (R42). -/
  fps : Rat
  deriving DecidableEq, Repr

/-- One full snapshot (spec/46_control_plane.md R290): a copy of the machine state and whether a key
wait is pending. It does not hold `carried_error`. -/
structure Snapshot where
  /-- The copied fields. -/
  machine : MachineState
  /-- Whether a key wait was pending. -/
  waitPending : Bool
  deriving DecidableEq, Repr

/-- The whole state of the block. -/
structure State extends MachineState where
  /-- The key-wait state `wait` (R44). -/
  wait : Option KeyWait
  /-- `carried_error`, the signed sleep drift (R43, spec/46_control_plane.md R285). -/
  carriedError : Duration
  /-- The snapshot register `snapshot_out` (R45, R290). -/
  snapshot : Snapshot
  /-- The command FIFO `cmd_in`, oldest first (R45, R260). -/
  cmdFifo : List Command
  /-- The construction parameters (spec/00_scope.md R11); no step writes them. -/
  config : Config
  /-- Where the scheduler stands in its loop (R276). -/
  phase : Phase
  /-- In `run_frame` (R281): the instructions of the batch not yet started, `n - i`. -/
  batchLeft : Nat
  /-- In the drain (R278): the commands applied so far in this iteration. -/
  applied : Nat
  /-- `t0`, the clock reading at the start of the iteration (R277). -/
  frameStart : Duration
  /-- The last reading of `clock_in` (R277, R284). -/
  clock : Duration
  /-- The host port `rand_in` (R9, R182). -/
  randIn : Port Byte
  /-- The host port `clock_in`: the advance of the wall clock between readings (R9, R295). -/
  clockIn : Port Duration
  /-- The host port `sleep_out`: the requested sleep out, the measured time slept in (R9, R285). -/
  sleepOut : RequestPort Duration Duration
  /-- The host port `rom_read`: the path asked for out, and the host's answers in, each with the path it
  answers (R9, R264). -/
  romRead : RequestPort String (String × RomReply)
  deriving DecidableEq, Repr

/-! ## Why a step can stop -/

/-- The machine stops. -/
inductive Fault where
  /-- Raised by `step` when the scheduler loop has terminated (spec/46_control_plane.md R280): the
  block has no further step. Safe: nothing happens after it on the hardware either. -/
  | loopTerminated
  deriving DecidableEq, Repr

/-- The model has no meaning to give. -/
inductive Refusal where
  /-- Raised by `exec` for an instruction the model gives no meaning yet. Safe. -/
  | notModelled (mnemonic : String)
  /-- Raised by `step` when a batch would execute an instruction although `error`, `exit_requested` or
  `wait` is set: "A step called in any other state is not defined by this spec; a model refuses it"
  (spec/40_fetch_dispatch.md R125). Safe; no state the scheduler reaches raises it. -/
  | stepNotEnabled
  deriving DecidableEq, Repr

/-! ## Reset (R350) -/

/-- The machine state at construction, under parameters c. -/
def MachineState.construct (c : Config) : MachineState where
  mem := []
  v := Vector.replicate 16 0x00#8
  i := 0x0000#16
  pc := 0x0200#16
  callStack := []
  dt := 0#8
  st := 0#8
  fb := List.replicate c.fbHeight (List.replicate c.fbWidth false)
  keys := Vector.replicate 16 false
  romName := none
  romSize := none
  opcodesPerFrame := c.opfInit
  running := false
  stepOnce := false
  exitRequested := false
  error := none
  currentFrame := 0
  actualFrameTime := 0
  frameTimeWithSleep := 0
  fps := 0

/-- A freshly constructed engine (R350, spec/46_control_plane.md R275): the first snapshot is a copy of
the reset state, the FIFO is empty and the scheduler is about to start its first iteration. -/
def State.construct (c : Config) : State where
  toMachineState := MachineState.construct c
  wait := none
  carriedError := 0
  snapshot := ⟨MachineState.construct c, false⟩
  cmdFifo := []
  config := c
  phase := .iterationStart
  batchLeft := 0
  applied := 0
  frameStart := 0
  clock := 0
  randIn := ⟨[], 0⟩
  clockIn := ⟨[], 0⟩
  sleepOut := ⟨⟨[], 0⟩, none⟩
  romRead := ⟨⟨[], 0⟩, none⟩

/-- The state after reset: an engine constructed with the default parameters (R350, R11). -/
def State.reset : State := State.construct defaultConfig

end Sys2Proof.Machine
end

