-- ==== Sys2Proof/Machine/Ops.lean ====
section
/-! DEFINITION. The named operations over memory, registers, the call stack, the framebuffer and the
error register, each written once; the meanings of Machine/<Family>.lean are lines over these. -/

namespace Sys2Proof.Machine

/-! ## Memory (spec/20_memory.md) -/

/-- What an address that memory does not list reads as: the reset contents, `FONT` at 0x000-0x04F and
0x00 from 0x050 up (R67; notes/assumptions/2.md and 3.md). -/
def Memory.blank (font : Vector Byte 80) (a : Nat) : Byte :=
  if h : a < 80 then font[a] else 0x00#8

/-- The byte at an address. -/
def Memory.read (font : Vector Byte 80) : Memory → Nat → Byte
  | [], a => Memory.blank font a
  | (k, b) :: rest, a => if a = k then b else Memory.read font rest a

/-- List a byte at an address, in address order, in place of the entry it had. -/
def Memory.insert : Memory → Nat → Byte → Memory
  | [], a, b => [(a, b)]
  | (k, c) :: rest, a, b =>
    if a < k then (a, b) :: (k, c) :: rest
    else if a = k then (a, b) :: rest
    else (k, c) :: Memory.insert rest a b

/-- Take an address off the list. -/
def Memory.erase : Memory → Nat → Memory
  | [], _ => []
  | (k, c) :: rest, a => if a = k then rest else (k, c) :: Memory.erase rest a

/-- `memory[a] <- b` in the canonical form: a byte equal to the reset contents is not listed. -/
def Memory.write (font : Vector Byte 80) (m : Memory) (a : Nat) (b : Byte) : Memory :=
  if b = Memory.blank font a then Memory.erase m a else Memory.insert m a b

/-- Bytes at consecutive addresses, increasing (R70). -/
def Memory.writeAll (font : Vector Byte 80) : Memory → Nat → List Byte → Memory
  | m, _, [] => m
  | m, a, b :: rest => Memory.writeAll font (Memory.write font m a b) (a + 1) rest

/-- The canonical form: addresses strictly rising, and no entry equal to what an unlisted address
reads as. -/
abbrev Memory.wf (font : Vector Byte 80) (m : Memory) : Prop :=
  m.Pairwise (fun c d => c.1 < d.1) ∧ ∀ c ∈ m, c.2 ≠ Memory.blank font c.1

/-- The byte the state's memory holds at an address in 0x000-0xFFF (`memory[a]`, R61). -/
def State.readByte (s : State) (a : Nat) : Byte := Memory.read s.config.font s.mem a

/-- `memory[a + k] <- bs[k]` (R63, after its checks; R68). -/
def State.writeBytes (s : State) (a : Nat) (bs : List Byte) : State :=
  { s with mem := Memory.writeAll s.config.font s.mem a bs }

/-- The check of `MemRead(a, 1)` (R61). -/
def readFault (a : Nat) : Option FaultKind :=
  if 0xFFF < a then some .outOfRange else none

/-- The check of `MemWrite(a, 1, v)` (R63). -/
def writeFault (c : Config) (a : Nat) : Option FaultKind :=
  if 0xFFF < a then some .outOfRange
  else if a ≤ 0x04F ∧ c.fontWrite = .fault then some .fontWrite
  else none

/-- The lowest of the n addresses from a that fails a check, with its kind (R64). -/
def firstFault (check : Nat → Option FaultKind) : Nat → Nat → Option (Nat × FaultKind)
  | _, 0 => none
  | a, n + 1 =>
    match check a with
    | some k => some (a, k)
    | none => firstFault check (a + 1) n

/-! ## Registers (spec/10_state.md) -/

/-- `V[r]` (R14, R21). -/
def State.readV (s : State) (r : Reg) : Byte := s.v[r.val]

/-- `V[r] <- b` (R14). -/
def State.setV (s : State) (r : Reg) (b : Byte) : State := { s with v := s.v.set r.val b }

/-- `I <- a` (R14, R25). -/
def State.setI (s : State) (a : Word) : State := { s with i := a }

/-- `PC <- a` (R14, spec/41_control_flow.md R140: neither alignment nor range is checked). -/
def State.setPc (s : State) (a : Word) : State := { s with pc := a }

/-- `DT <- b` (R32). -/
def State.setDt (s : State) (b : Byte) : State := { s with dt := b }

/-- `ST <- b` (R32). -/
def State.setSt (s : State) (b : Byte) : State := { s with st := b }

/-- `V[k] <- bytes[k]` from register k upward, increasing (spec/43_index_memory.md R205). -/
def loadRegisters : Vector Byte 16 → Nat → List Byte → Vector Byte 16
  | v, _, [] => v
  | v, k, b :: rest => loadRegisters (v.setIfInBounds k b) (k + 1) rest

/-- The address the current opcode was fetched from, `PC - 2` after the advance (R14,
spec/40_fetch_dispatch.md R121). -/
def State.fetchAddr (s : State) : Word := s.pc - 2#16

/-- Skip the next word: `PC <- PC + 2` on the already-advanced PC (spec/41_control_flow.md R141). -/
def State.skip (s : State) : State := s.setPc (s.pc + 2#16)

/-- Skip when a condition holds. -/
def State.skipIf (s : State) (c : Bool) : State := if c then s.skip else s

/-! ## Taking an error (spec/60_exceptions.md R310, R319, R321)

The block's one way to take an exception: the error value goes to the `error` register if that is
`None`, and nothing else changes, so PC stays at the fetch address + 2 and control goes nowhere. There
is no return from an error (R322): no operation of the block clears the register. -/

/-- `error <- e` if it is `None`; an error already there stays and e is discarded (R319). -/
def State.raiseError (s : State) (e : EngineError) : State :=
  { s with error := some (s.error.getD e) }

/-- How an instruction ends: with the state it computed, or by taking its error in the state it was
entered with, since every raise comes before the instruction's first write (R126). -/
def finish (s : State) : Except EngineError State → Host.Outcome State Fault Refusal
  | .ok t => .next t
  | .error e => .next (s.raiseError e)

/-- The error of a checked multi-byte access of instruction i, for the lowest failing address (R64,
R313), or the state the access leads to. -/
def State.access (s : State) (i : Instr) (failing : Option (Nat × FaultKind)) (t : State) :
    Except EngineError State :=
  match failing with
  | some (a, k) => .error (.memoryFault (some (encode i)) s.fetchAddr a k)
  | none => .ok t

/-! ## The call/return stack controller (spec/41_control_flow.md R142) -/

/-- The test of `push`: the depth is finite and reached. -/
def State.stackFull (s : State) : Bool :=
  match s.config.stackDepth with
  | none => false
  | some n => s.callStack.length == n

/-- `push(a)`. -/
def State.push (s : State) (a : Word) : Except EngineError State :=
  if s.stackFull then .error (.stackOverflow s.fetchAddr)
  else .ok { s with callStack := s.callStack ++ [a] }

/-- `PC <- pop()`. -/
def State.popToPc (s : State) : Except EngineError State :=
  match s.callStack.getLast? with
  | none => .error (.invalidReturn s.fetchAddr)
  | some a => .ok { s with pc := a, callStack := s.callStack.dropLast }

/-! ## The framebuffer (spec/44_display.md) -/

/-- `FB[y][x]`; off outside the grid. -/
def Framebuffer.pixel (fb : Framebuffer) (x y : Nat) : Bool :=
  ((fb[y]?.getD [])[x]?).getD false

/-- `FB[y][x] <- not FB[y][x]`. -/
def Framebuffer.toggle (fb : Framebuffer) (x y : Nat) : Framebuffer :=
  fb.modify y (fun row => row.modify x (! ·))

/-- All pixels off, H rows by W columns. -/
def Framebuffer.blank (w h : Nat) : Framebuffer := List.replicate h (List.replicate w false)

/-- The shape of the grid: H rows of W pixels (spec/10_state.md R33). -/
abbrev Framebuffer.wf (w h : Nat) (fb : Framebuffer) : Prop :=
  fb.length = h ∧ ∀ row ∈ fb, row.length = w

/-- What drawing carries along: the framebuffer, and whether an on pixel was turned off. -/
structure Canvas where
  /-- The framebuffer so far. -/
  fb : Framebuffer
  /-- The collision flag so far. -/
  collision : Bool
  deriving DecidableEq, Repr

/-- One sprite bit at (px, py): a 0 bit leaves its pixel, a 1 bit toggles it and reports an on pixel
turned off (R221). -/
def Canvas.plot (g : Canvas) (bit : Bool) (px py : Nat) : Canvas :=
  if bit then ⟨g.fb.toggle px py, g.collision || g.fb.pixel px py⟩ else g

/-- The columns c, c + 1, … of one sprite row, n of them: column c uses the byte's bit 7 - c and lands
at (x0 + c) mod FB_W (R221; the bit order is decision D44). -/
def Canvas.plotColumns (w : Nat) (row : Byte) (x0 py : Nat) : Nat → Nat → Canvas → Canvas
  | _, 0, g => g
  | c, n + 1, g =>
    Canvas.plotColumns w row x0 py (c + 1) n (g.plot (row.getLsbD (7 - c)) ((x0 + c) % w) py)

/-- The sprite rows r, r + 1, … with their bytes; row r lands at (y0 + r) mod FB_H (R221). -/
def Canvas.plotRows (w h : Nat) (x0 y0 : Nat) : Nat → List Byte → Canvas → Canvas
  | _, [], g => g
  | r, row :: rest, g =>
    Canvas.plotRows w h x0 y0 (r + 1) rest (Canvas.plotColumns w row x0 ((y0 + r) % h) 0 8 g)

/-! ## The snapshot register (spec/46_control_plane.md R290, R291) -/

/-- `publish()`: the slot now holds a copy of the current state. -/
def State.publish (s : State) : State :=
  { s with snapshot := ⟨s.toMachineState, s.wait.isSome⟩ }

/-! ## Host ports (spec/00_scope.md R9) -/

/-- The next answer of a port: the oldest one supplied, or the free value of its index. -/
def Port.value {α : Type} (free : Nat → α) (p : Port α) : α :=
  match p.pending with
  | [] => free p.taken
  | a :: _ => a

/-- The port once that answer is taken. -/
def Port.take {α : Type} (p : Port α) : Port α := ⟨p.pending.tail, p.taken + 1⟩

/-- `Rand8()`: the draw (spec/00_scope.md R14, spec/42_alu.md R182). -/
def State.rand8 (s : State) : Byte := s.randIn.value Config.freeRand

/-- The state once `rand_in` has been drawn from. -/
def State.dropRand (s : State) : State := { s with randIn := s.randIn.take }

end Sys2Proof.Machine
end

