-- ==== Sys2Proof/Machine/Flags.lean ====
section
/-! DEFINITION. The ALU's results and flags (spec/42_alu.md R170 to R184): each function takes exact
unsigned values and narrows at the end. -/

namespace Sys2Proof.Machine

/-- A flag value as VF holds it: 1 or 0. -/
def flagByte (c : Bool) : Byte := if c then 0x01#8 else 0x00#8

/-- `(a + b) mod 256` (R172, R177, R183). -/
def addWrap (a b : Byte) : Byte := BitVec.ofNat 8 (a.toNat + b.toNat)

/-- The carry out of a + b: the exact sum is above 255 (R177). -/
def carryOut (a b : Byte) : Bool := 255 < a.toNat + b.toNat

/-- `(a - b) mod 256` (R178, R180, R183). -/
def subWrap (a b : Byte) : Byte := BitVec.ofNat 8 (a.toNat + 256 - b.toNat)

/-- No borrow in a - b: a >= b (R178, R180). -/
def noBorrow (a b : Byte) : Bool := b.toNat ≤ a.toNat

/-- `a >> 1` (R179). -/
def shiftRight1 (a : Byte) : Byte := a >>> 1

/-- The bit a right shift moves out, `a & 0x01` (R179). -/
def outBitRight (a : Byte) : Byte := a &&& 0x01#8

/-- `(a << 1) mod 256` (R181). -/
def shiftLeft1 (a : Byte) : Byte := a <<< 1

/-- The bit a left shift moves out, `(a >> 7) & 0x01` (R181). -/
def outBitLeft (a : Byte) : Byte := (a >>> 7) &&& 0x01#8

/-- The order of R170: the result to VX, then the flag to VF last, so that VF ends holding the flag when
X = F (decision D10, notes/assumptions/7.md). -/
def State.resultThenFlag (s : State) (x : Reg) (result flag : Byte) : State :=
  (s.setV x result).setV 15 flag

/-- The order of the shifts (R179, R181): the out-bit of VX to VF first, then the shift of VX as it then
stands (decision D11, notes/assumptions/7.md). -/
def State.outBitThenShift (s : State) (x : Reg) (outBit shift : Byte → Byte) : State :=
  let t := s.setV 15 (outBit (s.readV x))
  t.setV x (shift (t.readV x))

end Sys2Proof.Machine
end

