-- ==== Sys2Proof/Machine/Alu.lean ====
section
/-! DEFINITION. The meanings of spec/42_alu.md. Each is the execute phase; none changes PC. -/

namespace Sys2Proof.Machine

/-- `6XNN` (R171). -/
def exec6XNN (x : Reg) (nn : Byte) (s : State) : Host.Outcome State Fault Refusal :=
  .next (s.setV x nn)

/-- `7XNN` (R172): no flag. -/
def exec7XNN (x : Reg) (nn : Byte) (s : State) : Host.Outcome State Fault Refusal :=
  .next (s.setV x (addWrap (s.readV x) nn))

/-- `8XY0` (R173). -/
def exec8XY0 (x y : Reg) (s : State) : Host.Outcome State Fault Refusal :=
  .next (s.setV x (s.readV y))

/-- `8XY1` (R174): OR, VF reset. -/
def exec8XY1 (x y : Reg) (s : State) : Host.Outcome State Fault Refusal :=
  .next (s.resultThenFlag x (s.readV x ||| s.readV y) 0x00#8)

/-- `8XY2` (R175): AND, VF reset. -/
def exec8XY2 (x y : Reg) (s : State) : Host.Outcome State Fault Refusal :=
  .next (s.resultThenFlag x (s.readV x &&& s.readV y) 0x00#8)

/-- `8XY3` (R176): XOR, VF reset. -/
def exec8XY3 (x y : Reg) (s : State) : Host.Outcome State Fault Refusal :=
  .next (s.resultThenFlag x (s.readV x ^^^ s.readV y) 0x00#8)

/-- `8XY4` (R177): add, VF = carry. -/
def exec8XY4 (x y : Reg) (s : State) : Host.Outcome State Fault Refusal :=
  .next (s.resultThenFlag x (addWrap (s.readV x) (s.readV y))
    (flagByte (carryOut (s.readV x) (s.readV y))))

/-- `8XY5` (R178): VX - VY, VF = no borrow. -/
def exec8XY5 (x y : Reg) (s : State) : Host.Outcome State Fault Refusal :=
  .next (s.resultThenFlag x (subWrap (s.readV x) (s.readV y))
    (flagByte (noBorrow (s.readV x) (s.readV y))))

/-- `8XY6` (R179): VX >> 1, VF = the bit shifted out; Y is not used. -/
def exec8XY6 (x _y : Reg) (s : State) : Host.Outcome State Fault Refusal :=
  .next (s.outBitThenShift x outBitRight shiftRight1)

/-- `8XY7` (R180): VY - VX, VF = no borrow. -/
def exec8XY7 (x y : Reg) (s : State) : Host.Outcome State Fault Refusal :=
  .next (s.resultThenFlag x (subWrap (s.readV y) (s.readV x))
    (flagByte (noBorrow (s.readV y) (s.readV x))))

/-- `8XYE` (R181): VX << 1, VF = the bit shifted out; Y is not used. -/
def exec8XYE (x _y : Reg) (s : State) : Host.Outcome State Fault Refusal :=
  .next (s.outBitThenShift x outBitLeft shiftLeft1)

/-- `CXNN` (R182): one draw from `rand_in`, a free value. -/
def execCXNN (x : Reg) (nn : Byte) (s : State) : Host.Outcome State Fault Refusal :=
  .next (s.dropRand.setV x (s.rand8 &&& nn))

end Sys2Proof.Machine
end

