-- ==== Sys2Proof/Machine/Operands.lean ====
section
/-! DEFINITION. Operand forms: the complete list of addressing modes is spec/43_index_memory.md R206.
No instruction changes I by an access, and no immediate is sign-extended (spec/30_encoding.md R93). -/

namespace Sys2Proof.Machine

/-- The address operand NNN, `zext_16(NNN)` (R93). -/
def addressNNN (nnn : BitVec 12) : Word := nnn.setWidth 16

/-- The target of `BNNN`: `zext_16(NNN) + zext_16(V[0])`, exact since it is at most 0x10FE
(spec/41_control_flow.md R147). -/
def State.addressPlusV0 (s : State) (nnn : BitVec 12) : Word :=
  addressNNN nnn + (s.readV 0).setWidth 16

/-- Register-indirect through I: the exact integer I + k (R206; spec/20_memory.md R61). -/
def State.addressI (s : State) (k : Nat) : Nat := s.i.toNat + k

/-- The lowest failing address of n reads from I (spec/20_memory.md R64). -/
def State.readFaultAtI (s : State) (n : Nat) : Option (Nat × FaultKind) :=
  firstFault readFault (s.addressI 0) n

/-- The lowest failing address of n writes from I (R64). -/
def State.writeFaultAtI (s : State) (n : Nat) : Option (Nat × FaultKind) :=
  firstFault (writeFault s.config) (s.addressI 0) n

/-- The n bytes at I, I + 1, …, in increasing order. -/
def State.bytesAtI (s : State) (n : Nat) : List Byte :=
  (List.range n).map (fun k => s.readByte (s.addressI k))

/-- V0 to VX, in increasing order (R204). -/
def State.registersTo (s : State) (x : Reg) : List Byte := s.v.toList.take (x.val + 1)

/-- The key that VX numbers, if there is one: the vector has 16 entries (spec/45_input_timers.md
R240). -/
def State.keyIndex (s : State) (x : Reg) : Option (Fin 16) :=
  if h : (s.readV x).toNat < 16 then some ⟨(s.readV x).toNat, h⟩ else none

/-- `Keys[k]`. -/
def State.keyDown (s : State) (k : Fin 16) : Bool := s.keys[k.val]

end Sys2Proof.Machine
end

