-- ==== Sys2Proof/Machine/ControlFlow.lean ====
section
/-! DEFINITION. The meanings of spec/41_control_flow.md. Each is the execute phase: on entry PC is the
fetch address + 2 (spec/40_fetch_dispatch.md R121). -/

namespace Sys2Proof.Machine

/-- `00EE` (R143). -/
def exec00EE (s : State) : Host.Outcome State Fault Refusal := finish s s.popToPc

/-- `0NNN` (R144): nothing; PC stays at the fetch address + 2. -/
def exec0NNN (_nnn : BitVec 12) (s : State) : Host.Outcome State Fault Refusal := .next s

/-- `1NNN` (R145). -/
def exec1NNN (nnn : BitVec 12) (s : State) : Host.Outcome State Fault Refusal :=
  .next (s.setPc (addressNNN nnn))

/-- `2NNN` (R146): push the advanced PC, then jump. -/
def exec2NNN (nnn : BitVec 12) (s : State) : Host.Outcome State Fault Refusal :=
  finish s ((s.push s.pc).map (·.setPc (addressNNN nnn)))

/-- `BNNN` (R147). -/
def execBNNN (nnn : BitVec 12) (s : State) : Host.Outcome State Fault Refusal :=
  .next (s.setPc (s.addressPlusV0 nnn))

/-- `3XNN` (R148). -/
def exec3XNN (x : Reg) (nn : Byte) (s : State) : Host.Outcome State Fault Refusal :=
  .next (s.skipIf (s.readV x == nn))

/-- `4XNN` (R149). -/
def exec4XNN (x : Reg) (nn : Byte) (s : State) : Host.Outcome State Fault Refusal :=
  .next (s.skipIf (s.readV x != nn))

/-- `5XY0` (R150). -/
def exec5XY0 (x y : Reg) (s : State) : Host.Outcome State Fault Refusal :=
  .next (s.skipIf (s.readV x == s.readV y))

/-- `9XY0` (R151). -/
def exec9XY0 (x y : Reg) (s : State) : Host.Outcome State Fault Refusal :=
  .next (s.skipIf (s.readV x != s.readV y))

end Sys2Proof.Machine
end

