-- ==== Sys2Proof/Machine/Display.lean ====
section
/-! DEFINITION. The meanings of spec/44_display.md. Each is the execute phase; none changes PC. -/

namespace Sys2Proof.Machine

/-- `00E0` (R220): every pixel off; VF is not written. -/
def exec00E0 (s : State) : Host.Outcome State Fault Refusal :=
  .next { s with fb := Framebuffer.blank s.config.fbWidth s.config.fbHeight }

/-- The framebuffer and the collision flag of a draw whose start point, sprite bytes and framebuffer are
those of s (R221): VX, VY and I are latched before VF is cleared (decision D11). -/
def State.drawn (s : State) (x y : Reg) (n : Nat) : Canvas :=
  Canvas.plotRows s.config.fbWidth s.config.fbHeight (s.readV x).toNat (s.readV y).toNat 0
    (s.bytesAtI n) ⟨s.fb, false⟩

/-- `DXYN` (R221, R222): draw by XOR, wrapping on both axes; VF = 1 if a pixel went from on to off. -/
def execDXYN (x y : Reg) (n : Fin 16) (s : State) : Host.Outcome State Fault Refusal :=
  finish s (s.access (.opDXYN x y n) (s.readFaultAtI n.val)
    ({ s with fb := (s.drawn x y n.val).fb }.setV 15 (flagByte (s.drawn x y n.val).collision)))

end Sys2Proof.Machine
end

