-- ==== Sys2Proof/Machine/IndexMemory.lean ====
section
/-! DEFINITION. The meanings of spec/43_index_memory.md. Each is the execute phase; none changes PC, and
every address is checked before the first access (spec/20_memory.md R64). -/

namespace Sys2Proof.Machine

/-- `ANNN` (R200). -/
def execANNN (nnn : BitVec 12) (s : State) : Host.Outcome State Fault Refusal :=
  .next (s.setI (addressNNN nnn))

/-- I + VX, by the parameter `I_OVERFLOW` when the exact sum passes 0xFFFF (R201; decision D6). -/
def State.addToI (s : State) (x : Reg) : Except EngineError State :=
  let sum := s.i.toNat + (s.readV x).toNat
  if 0xFFFF < sum ∧ s.config.iOverflow = .fault then
    .error (.iOverflow (encode (.opFX1E x)) s.fetchAddr)
  else .ok (s.setI (BitVec.ofNat 16 sum))

/-- `FX1E` (R201): VF is not written. -/
def execFX1E (x : Reg) (s : State) : Host.Outcome State Fault Refusal := finish s (s.addToI x)

/-- `FX29` (R202): VX * 5, also for VX > 0xF (decision D32). -/
def execFX29 (x : Reg) (s : State) : Host.Outcome State Fault Refusal :=
  .next (s.setI (BitVec.ofNat 16 ((s.readV x).toNat * 5)))

/-- The three decimal digits of a byte, hundreds first (R203, R69). -/
def bcdDigits (b : Byte) : List Byte :=
  [BitVec.ofNat 8 (b.toNat / 100), BitVec.ofNat 8 (b.toNat / 10 % 10), BitVec.ofNat 8 (b.toNat % 10)]

/-- `FX33` (R203). -/
def execFX33 (x : Reg) (s : State) : Host.Outcome State Fault Refusal :=
  finish s (s.access (.opFX33 x) (s.writeFaultAtI 3)
    (s.writeBytes (s.addressI 0) (bcdDigits (s.readV x))))

/-- `FX55` (R204): V0 to VX, I unchanged. -/
def execFX55 (x : Reg) (s : State) : Host.Outcome State Fault Refusal :=
  finish s (s.access (.opFX55 x) (s.writeFaultAtI (x.val + 1))
    (s.writeBytes (s.addressI 0) (s.registersTo x)))

/-- `FX65` (R205): V0 to VX, I unchanged. -/
def execFX65 (x : Reg) (s : State) : Host.Outcome State Fault Refusal :=
  finish s (s.access (.opFX65 x) (s.readFaultAtI (x.val + 1))
    { s with v := loadRegisters s.v 0 (s.bytesAtI (x.val + 1)) })

end Sys2Proof.Machine
end

