-- ==== Sys2Proof/Machine/InputTimers.lean ====
section
/-! DEFINITION. The meanings of spec/45_input_timers.md. Each is the execute phase. -/

namespace Sys2Proof.Machine

/-- The key skips: a skip by the key VX numbers, or `KeyIndexFault` when VX > 0xF (R240, R241; decision
D8). `wanted` is the key position that skips. -/
def State.skipIfKey (s : State) (i : Instr) (x : Reg) (wanted : Bool) : Except EngineError State :=
  match s.keyIndex x with
  | none => .error (.keyIndexFault (encode i) s.fetchAddr (s.readV x))
  | some k => .ok (s.skipIf (s.keyDown k == wanted))

/-- `EX9E` (R240). -/
def execEX9E (x : Reg) (s : State) : Host.Outcome State Fault Refusal :=
  finish s (s.skipIfKey (.opEX9E x) x true)

/-- `EXA1` (R241). -/
def execEXA1 (x : Reg) (s : State) : Host.Outcome State Fault Refusal :=
  finish s (s.skipIfKey (.opEXA1 x) x false)

/-- `FX07` (R242). -/
def execFX07 (x : Reg) (s : State) : Host.Outcome State Fault Refusal := .next (s.setV x s.dt)

/-- `FX15` (R243). -/
def execFX15 (x : Reg) (s : State) : Host.Outcome State Fault Refusal := .next (s.setDt (s.readV x))

/-- `FX18` (R244). -/
def execFX18 (x : Reg) (s : State) : Host.Outcome State Fault Refusal := .next (s.setSt (s.readV x))

/-- `FX0A` (R245): enter the key wait. `remaining` is the scheduler's count of the batch's instructions
still to execute (spec/46_control_plane.md R281). -/
def execFX0A (x : Reg) (s : State) : Host.Outcome State Fault Refusal :=
  .next { s with wait := some ⟨x, s.keys, s.batchLeft⟩ }

end Sys2Proof.Machine
end

