-- ==== Sys2Proof/Machine/Fetch.lean ====
section
/-! DEFINITION. Fetch, advance, decode: the instruction step every instruction shares
(spec/40_fetch_dispatch.md). -/

namespace Sys2Proof.Machine

/-- Fetch (R120): both addresses are checked first; then the big-endian word at PC. -/
def State.fetch (s : State) : Except EngineError Word :=
  match firstFault readFault s.pc.toNat 2 with
  | some (a, k) => .error (.memoryFault none s.pc a k)
  | none => .ok (wordOfBytes (s.readByte s.pc.toNat) (s.readByte (s.pc.toNat + 1)))

/-- Advance (R121): `PC <- PC + 2`. -/
def State.advance (s : State) : State := s.setPc (s.pc + 2#16)

/-- The instruction step `execute_instruction` (R120 to R124): a fetch fault leaves PC unchanged, an
illegal word is `InvalidOpcode` with PC advanced, a decoded word runs its instruction. -/
def executeInstruction (s : State) : Host.Outcome State Fault Refusal :=
  match s.fetch with
  | .error e => .next (s.raiseError e)
  | .ok w =>
    match decode w with
    | .error _ => .next (s.advance.raiseError (.invalidOpcode w s.advance.fetchAddr))
    | .ok i => exec i s.advance

/-- s with a 16-bit opcode stored where the next instruction is fetched, and standing inside a batch in
which that instruction is the next to run (notes/assumptions/10.md): it stands for a `LoadRom` and for
the scheduler actions that lead to a batch. A PC from which no word can be fetched is put at the entry
point 0x200. -/
def State.placeOpcode (s : State) (w : Word) : State :=
  let pc := if s.pc.toNat ≤ 0xFFE then s.pc else 0x200#16
  { s.writeBytes pc.toNat [highByte w, lowByte w] with
    pc := pc
    phase := .batch
    batchLeft := max 1 s.batchLeft
    error := none
    exitRequested := false
    wait := none }

end Sys2Proof.Machine
end

