-- ==== Sys2Proof/Machine/Scheduler.lean ====
section
/-! DEFINITION. The control plane (spec/46_control_plane.md): the six commands, the frame scheduler and
its key-wait poll. The loop of R276 is cut into the actions of `Phase`; the outside world acts between
any two of them (Machine/Environment.lean), so a command that arrives while a drain runs may land in that
drain or in the next (R278). -/

namespace Sys2Proof.Machine

/-! ## Host inputs (R295) -/

/-- The magnitude of a free duration: `clock_in` never decreases and `slept >= 0`. -/
def magnitude (q : Duration) : Duration := if q < 0 then -q else q

/-- What `clock_in` reads next. -/
def State.clockReading (s : State) : Duration :=
  s.clock + magnitude (s.clockIn.value Config.freeClockAdvance)

/-- The state once `clock_in` has been read. -/
def State.readClock (s : State) : State :=
  { s with clock := s.clockReading, clockIn := s.clockIn.take }

/-- The time the host reports as slept, should a sleep be requested. -/
def State.hostSlept (s : State) : Duration := magnitude (s.sleepOut.value Config.freeSlept)

/-- `sleep_out(budget)`: the requested duration goes out on the port, and the measured time is taken in
(R285). -/
def State.requestSleep (s : State) (budget : Duration) : State :=
  { s with sleepOut := ⟨s.sleepOut.take, some budget⟩ }

/-- The host's answer to `rom_read(path)`: the oldest one supplied for that path, or the free value of the
request's index. -/
def State.romReply (s : State) (path : String) : RomReply :=
  match s.romRead.pending.find? (·.1 == path) with
  | some (_, r) => r
  | none => Config.freeRomReply s.romRead.taken path

/-- `rom_read(path)`: the path goes out on the port, and its answer is taken in (R264; D37). -/
def State.requestRom (s : State) (path : String) : State :=
  { s with romRead :=
      ⟨⟨s.romRead.pending.eraseP (·.1 == path), s.romRead.taken + 1⟩, some path⟩ }

/-! ## Commands (R262 to R267) -/

/-- The largest ROM, 3584 bytes (spec/00_scope.md R10, R264). -/
def maxRomSize : Nat := 3584

/-- What a `LoadRom` does with the host's answer (R264). -/
def State.loadReply (s : State) (path : String) : RomReply → State
  | .ioError e => s.raiseError (.invalidRom path e)
  | .bytes b =>
    if maxRomSize < b.length then s.raiseError (.romTooLarge path b.length maxRomSize)
    else { s.writeBytes 0x200 b with romName := some path, romSize := some b.length }

/-- `LoadRom(path)`: ask the host, then load or set the error (R264; D37). -/
def State.loadRom (s : State) (path : String) : State :=
  (s.requestRom path).loadReply path (s.romReply path)

/-- Apply one command, in whatever state (R262 to R268). -/
def State.applyCommand (s : State) : Command → State
  | .setRunning b => { s with running := b }
  | .stepFrame => { s with stepOnce := true }
  | .loadRom path => s.loadRom path
  | .setOpcodesPerFrame n => { s with opcodesPerFrame := n }
  | .setKeysDown keys => { s with keys := keys }
  | .exit => { s with exitRequested := true }

/-! ## The steps of an iteration -/

/-- `t0 <- clock_in()` (R277). -/
def State.beginIteration (s : State) : State :=
  { s.readClock with frameStart := s.clockReading, applied := 0, phase := .draining }

/-- One action of step 1 (R278, R279): apply the oldest command, or, the queue empty, publish if any was
applied and go on to step 2. -/
def State.drainStep (s : State) : State :=
  match s.cmdFifo with
  | c :: rest => { s with cmdFifo := rest, applied := s.applied + 1 }.applyCommand c
  | [] => { (if 0 < s.applied then s.publish else s) with phase := .deciding }

/-- The keys that went down since the last poll, lowest first (spec/45_input_timers.md R246, T). -/
def pressedKeys (now before : KeyVector) : List (Fin 16) :=
  (List.finRange 16).filter (fun k => now[k.val] && !before[k.val])

/-- One poll of a pending `FX0A` (R246, R282): a press completes it and the batch resumes with the saved
count; otherwise the key vector is remembered and a waiting snapshot published. -/
def State.pollKeys (s : State) (w : KeyWait) : State :=
  match pressedKeys s.keys w.prevKeys with
  | k :: _ =>
    { s.setV w.x (BitVec.ofNat 8 k.val) with wait := none, phase := .batch, batchLeft := w.remaining }
  | [] => { { s with wait := some { w with prevKeys := s.keys } }.publish with phase := .pacing }

/-- Step 2 and the choice of step 3 (R276, R280 to R282): `Exit` terminates the loop and drops a pending
key wait (spec/10_state.md R44); an error skips step 3; a pending key wait is polled; else a batch of
`opcodes_per_frame` instructions runs if `running or step_once`. -/
def State.decideStep (s : State) : State :=
  if s.exitRequested then { s with phase := .terminated, wait := none }
  else if s.error.isSome then { s with phase := .pacing }
  else
    match s.wait with
    | some w => s.pollKeys w
    | none =>
      if s.running || s.stepOnce then
        { s with phase := .batch, batchLeft := s.opcodesPerFrame.toNat }
      else { s with phase := .pacing }

/-- A timer's decrement, floored at 0 (R283, spec/10_state.md R32). -/
def decTimer (t : Byte) : Byte := if t = 0#8 then 0#8 else t - 1#8

/-- `end_of_frame()` in the source's order: timers, publish, frame count, one-shot flag (R283). -/
def State.endOfFrame (s : State) : State :=
  let t := { s with dt := decTimer s.dt, st := decTimer s.st }.publish
  { t with currentFrame := t.currentFrame + 1, stepOnce := false, phase := .pacing }

/-- What `run_frame` does after an instruction (R281): an error or a requested exit ends the batch; an
entered key wait publishes the first waiting snapshot and leaves the batch without the end-of-frame
steps; otherwise the batch goes on. -/
def State.afterInstruction (s : State) : State :=
  if s.error.isSome || s.exitRequested then { s with batchLeft := 0 }
  else if s.wait.isSome then { s.publish with batchLeft := 0, phase := .pacing }
  else s

/-- Whether the scheduler may call the instruction step (spec/40_fetch_dispatch.md R125). -/
def State.enabled (s : State) : Bool := s.error.isNone && !s.exitRequested && s.wait.isNone

/-- Carry an outcome's next state on. -/
def andThen (o : Host.Outcome State Fault Refusal) (f : State → State) :
    Host.Outcome State Fault Refusal :=
  match o with
  | .next t => .next (f t)
  | .fault r => .fault r
  | .refused r => .refused r

/-- One round of `run_frame`'s loop (R281): the batch over, the end-of-frame steps; else one instruction,
counted off before it runs. -/
def State.batchStep (s : State) : Host.Outcome State Fault Refusal :=
  if s.batchLeft = 0 then .next s.endOfFrame
  else if s.enabled then
    andThen (executeInstruction { s with batchLeft := s.batchLeft - 1 }) State.afterInstruction
  else .refused .stepNotEnabled

/-- `TARGET = 1000/60` ms (R284). -/
def targetInterval : Duration := 1000 / 60

/-- The budget of step 5 (R285). -/
def State.sleepBudget (s : State) (elapsed : Duration) : Duration :=
  targetInterval - elapsed + s.carriedError

/-- The time slept in step 5: none when the budget is negative (R285). -/
def State.slept (s : State) (elapsed : Duration) : Duration :=
  if s.sleepBudget elapsed < 0 then 0 else s.hostSlept

/-- Step 5, pacing with drift compensation (R285): a negative budget requests no sleep; any other is
requested of the host, a budget of 0 included. -/
def State.pace (s : State) (elapsed : Duration) : State :=
  if s.sleepBudget elapsed < 0 then { s with carriedError := 0 }
  else { s.requestSleep (s.sleepBudget elapsed) with
    carriedError := s.sleepBudget elapsed - s.hostSlept }

/-- Step 6, instrumentation (R286): recorded while running without error, else zeroed. -/
def State.recordInstrumentation (s : State) (elapsed slept : Duration) : State :=
  if s.running && s.error.isNone then
    { s with
      actualFrameTime := elapsed
      frameTimeWithSleep := elapsed + slept
      fps := if elapsed + slept = 0 then 0 else 1000 / (elapsed + slept) }
  else { s with actualFrameTime := 0, frameTimeWithSleep := 0, fps := 0, currentFrame := 0 }

/-- Steps 4 to 6 (R284 to R286): the elapsed time by a second clock reading, the sleep, the
instrumentation; then the next iteration. -/
def State.paceStep (s : State) : State :=
  let elapsed := s.clockReading - s.frameStart
  let t := s.readClock
  { (t.pace elapsed).recordInstrumentation elapsed (t.slept elapsed) with phase := .iterationStart }

/-- One action of the scheduler agent, the only agent that changes machine state (spec/00_scope.md R8,
spec/10_state.md R20). -/
def State.schedule (s : State) : Host.Outcome State Fault Refusal :=
  match s.phase with
  | .iterationStart => .next s.beginIteration
  | .draining => .next s.drainStep
  | .deciding => .next s.decideStep
  | .batch => s.batchStep
  | .pacing => .next s.paceStep
  | .terminated => .fault .loopTerminated

/-! ## The scheduler's state machine (spec/10_state.md R47, R287) -/

/-- The scheduler states the source names, and the sub-state `WaitingKey` this spec adds. -/
inductive SchedulerState where
  /-- `Idle`. -/
  | idle
  /-- `Running`. -/
  | running
  /-- `Stepping`. -/
  | stepping
  /-- `WaitingKey`. -/
  | waitingKey
  /-- `Errored`. -/
  | errored
  /-- `Exiting`. -/
  | exiting
  deriving DecidableEq, Repr

/-- The scheduler state is a function of the fields, checked in the order of R47. -/
def State.schedulerState (s : State) : SchedulerState :=
  if s.exitRequested then .exiting
  else if s.error.isSome then .errored
  else if s.wait.isSome then .waitingKey
  else if s.running then .running
  else if s.stepOnce then .stepping
  else .idle

/-- The numeric cause code of the `error` register (spec/60_exceptions.md R330; the numbers are the
spec's own, decision D45). -/
def causeCode : Option EngineError → Nat
  | none => 0
  | some (.invalidOpcode _ _) => 1
  | some (.invalidReturn _) => 2
  | some (.romTooLarge _ _ _) => 3
  | some (.invalidRom _ _) => 4
  | some (.memoryFault _ _ _ _) => 5
  | some (.stackOverflow _) => 6
  | some (.iOverflow _ _) => 7
  | some (.keyIndexFault _ _ _) => 8

end Sys2Proof.Machine
end

