-- ==== Sys2Proof/Machine/Step.lean ====
section
/-! DEFINITION. One step of the block: one action of its scheduler agent, which inside a batch is one
instruction (spec/46_control_plane.md R276, R281). -/

namespace Sys2Proof.Machine

/-- The step. -/
def step (s : State) : Host.Outcome State Fault Refusal := s.schedule

/-- s with the opcode of a table row (its bits above `nbits` zero) stored where `step` fetches its next
instruction, and inside a batch, so that the very next step runs it (notes/assumptions/10.md). -/
def State.withFetchWord (s : State) (nbits w : Nat) : State :=
  s.placeOpcode (BitVec.ofNat 16 (w % 2 ^ nbits))

end Sys2Proof.Machine
end

