-- ==== Sys2Proof/Machine/Environment.lean ====
section
/-! DEFINITION. What the outside world can do to the block between two of its steps
(spec/00_scope.md R8, R9; spec/60_exceptions.md R327): enqueue commands, read the snapshot, put answers
on the host ports, and replace a terminated engine. None of it is a step of the block. -/

namespace Sys2Proof.Machine

/-- Whether the command FIFO is at its bound (spec/46_control_plane.md R260). -/
def State.fifoFull (s : State) : Bool :=
  match s.config.cmdFifoDepth with
  | none => false
  | some n => n ≤ s.cmdFifo.length

/-- A producer's enqueue (R260): first in, first out. `none`: the producer faces a full queue and has no
step until the scheduler drains; a command is never dropped. -/
def State.enqueue (s : State) (c : Command) : Option State :=
  if s.fifoFull then none else some { s with cmdFifo := s.cmdFifo ++ [c] }

/-- A reader's read of the snapshot register (R292): the most recently published snapshot; nothing
changes. -/
def State.readSnapshot (s : State) : Snapshot := s.snapshot

/-- The host puts a value on `rand_in`. -/
def State.supplyRand (s : State) (b : Byte) : State :=
  { s with randIn := ⟨s.randIn.pending ++ [b], s.randIn.taken⟩ }

/-- The host puts an advance of the wall clock on `clock_in`. -/
def State.supplyClock (s : State) (q : Duration) : State :=
  { s with clockIn := ⟨s.clockIn.pending ++ [q], s.clockIn.taken⟩ }

/-- The host puts a measured sleep on `sleep_out`. -/
def State.supplySlept (s : State) (q : Duration) : State :=
  { s with sleepOut :=
      ⟨⟨s.sleepOut.pending ++ [q], s.sleepOut.taken⟩, s.sleepOut.request⟩ }

/-- The host puts an answer for a path on `rom_read`. -/
def State.supplyRom (s : State) (path : String) (r : RomReply) : State :=
  { s with romRead :=
      ⟨⟨s.romRead.pending ++ [(path, r)], s.romRead.taken⟩, s.romRead.request⟩ }

/-- Engine replacement (R289, spec/60_exceptions.md R322): a controller that has joined the terminated
scheduler thread constructs a new engine; no state carries over. `none` before the loop has
terminated. -/
def State.replaceEngine (s : State) (c : Config) : Option State :=
  if s.phase = .terminated then some (State.construct c) else none

end Sys2Proof.Machine
end

