-- ==== Sys2Proof/Safety.lean ====
section
/-! DEFINITION. What claims about runs are stated in: the transitions of the block and of the outside
world, reachability, and the invariant of the block. -/

namespace Sys2Proof.Machine

/-! ## Runs -/

/-- One transition: a step of the block, or an action of the outside world between two steps
(spec/00_scope.md R8; spec/60_exceptions.md R327). -/
inductive Transition : State → State → Prop where
  /-- The scheduler agent's step. -/
  | step {s t : State} (h : step s = .next t) : Transition s t
  /-- A producer enqueues a command (spec/46_control_plane.md R260). -/
  | enqueue {s t : State} (c : Command) (h : s.enqueue c = some t) : Transition s t
  /-- The host answers on `rand_in`. -/
  | supplyRand (s : State) (b : Byte) : Transition s (s.supplyRand b)
  /-- The host answers on `clock_in`. -/
  | supplyClock (s : State) (q : Duration) : Transition s (s.supplyClock q)
  /-- The host answers on `sleep_out`. -/
  | supplySlept (s : State) (q : Duration) : Transition s (s.supplySlept q)
  /-- The host answers on `rom_read`. -/
  | supplyRom (s : State) (path : String) (r : RomReply) : Transition s (s.supplyRom path r)
  /-- A controller replaces a terminated engine (R289). -/
  | replaceEngine {s t : State} (c : Config) (h : s.replaceEngine c = some t) : Transition s t

/-- The states a block constructed with some parameters can come to, whatever the outside world does. -/
inductive Reachable : State → Prop where
  /-- A fresh engine (spec/70_reset_and_hazards.md R350). -/
  | construct (c : Config) : Reachable (State.construct c)
  /-- One transition more. -/
  | transition {s t : State} (hs : Reachable s) (h : Transition s t) : Reachable t

/-- k steps of the block alone, from s. -/
def steps (k : Nat) (s : State) : Host.Outcome State Fault Refusal := Host.Core.run
  { State := State, Fault := Fault, Refusal := Refusal, step := step, reset := State.reset } k s

/-! ## What does not depend on time -/

/-- s with every field that holds wall-clock time put at one value: instrumentation times, drift, clock
readings, the two time ports, and the snapshot's copies (spec/46_control_plane.md R295). -/
def State.forgetTime (s : State) : State :=
  { s with
    actualFrameTime := 0, frameTimeWithSleep := 0, fps := 0, carriedError := 0, frameStart := 0
    clock := 0, clockIn := ⟨[], 0⟩, sleepOut := ⟨⟨[], 0⟩, none⟩
    snapshot := ⟨{ s.snapshot.machine with actualFrameTime := 0, frameTimeWithSleep := 0, fps := 0 },
      s.snapshot.waitPending⟩ }

/-! ## The invariant -/

/-- Memory holds bytes of the 4096 addresses only, in the canonical form, and the font is intact unless
`FONT_WRITE = write` (spec/20_memory.md R60, R63, R65). -/
structure MemoryInv (s : State) : Prop where
  /-- The canonical form. -/
  canonical : Memory.wf s.config.font s.mem
  /-- No byte outside 0x000-0xFFF. -/
  inRange : ∀ c ∈ s.mem, c.1 ≤ 0xFFF
  /-- No font byte differs from `FONT`. -/
  fontIntact : s.config.fontWrite = .fault → ∀ c ∈ s.mem, 0x04F < c.1

/-- The framebuffer keeps the shape fixed at construction (spec/10_state.md R33). -/
def GridInv (s : State) : Prop := Framebuffer.wf s.config.fbWidth s.config.fbHeight s.fb

/-- PC and every return address stay in the range R30 derives: PC never wraps. -/
structure PcInv (s : State) : Prop where
  /-- PC is at most 0xFFF + 0xFF. -/
  pcInRange : s.pc.toNat ≤ 0x10FE
  /-- A return address is an advanced PC. -/
  returnsInRange : ∀ a ∈ s.callStack, a.toNat ≤ 0x1000

/-- The call stack never exceeds a finite `STACK_DEPTH` (R31). -/
def StackInv (s : State) : Prop := ∀ n, s.config.stackDepth = some n → s.callStack.length ≤ n

/-- The scheduler calls the instruction step only where R125 allows it. -/
structure SchedulerInv (s : State) : Prop where
  /-- Inside a batch that has an instruction left to run, the instruction step is enabled. -/
  batchEnabled : s.phase = .batch → s.batchLeft ≠ 0 → s.enabled = true
  /-- No key wait is pending inside a batch. -/
  batchNoWait : s.phase = .batch → s.wait = none
  /-- The loop terminates only on `Exit` (spec/46_control_plane.md R288). -/
  terminatedByExit : s.phase = .terminated → s.exitRequested = true

/-- Errors are visible in the published snapshot (spec/46_control_plane.md R294): wherever the scheduler
has passed the publish that follows an error, the slot shows the error register. -/
structure ErrorVisible (s : State) : Prop where
  /-- Outside the drain and the batch the slot shows `error`. -/
  published : s.phase ≠ .draining → s.phase ≠ .batch → s.snapshot.machine.error = s.error
  /-- In the drain, before a command was applied. -/
  beforeDrain : s.phase = .draining → s.applied = 0 → s.snapshot.machine.error = s.error

/-- The ROM metadata of spec/10_state.md R36: set together, and a size of at most 3584. -/
structure RomInv (s : State) : Prop where
  /-- Both are `None`, or neither is. -/
  together : s.romName.isSome = s.romSize.isSome
  /-- No larger ROM is loaded (R264). -/
  sizeBounded : ∀ n, s.romSize = some n → n ≤ 3584

/-- The invariant of the block. -/
structure Inv (s : State) : Prop where
  /-- See `MemoryInv`. -/
  memory : MemoryInv s
  /-- See `GridInv`. -/
  grid : GridInv s
  /-- See `PcInv`. -/
  pc : PcInv s
  /-- See `StackInv`. -/
  stack : StackInv s
  /-- See `SchedulerInv`. -/
  scheduler : SchedulerInv s
  /-- See `ErrorVisible`. -/
  errors : ErrorVisible s
  /-- See `RomInv`. -/
  rom : RomInv s

end Sys2Proof.Machine
end

