-- ==== Sys2Proof/Certificates/Slice0/Obligations.lean ====
section
/-! DEFINITION. The statements for the provers, one `def Obligations.<Name> : Prop` each.

Conventions. `exec i s` runs the execute phase on a state whose PC is already advanced
(spec/40_fetch_dispatch.md R121), so `s.fetchAddr` is the opcode's address. `{ s with f := t.f }` on the
right of an equation for t is a frame: every field but f is as in s. `s.error.getD e` is the error
register after an error e is raised: e, or the error that was there (spec/60_exceptions.md R319). -/

open Sys2Proof Sys2Proof.Machine

/-! ## Encoding and decoding (spec/30_encoding.md) -/

/-- Decode and encode agree, on words and on bytes, for every instruction and every operand value
(R91 to R95). -/
def Obligations.DecodeOfEncodeIsIdentity : Prop :=
  ∀ i : Instr, i.wellFormed = true →
    decode (encode i) = .ok i ∧
    ∀ rest, decodeBytes (highByte (encode i) :: lowByte (encode i) :: rest) = .ok (i, rest)

/-- The other direction: each word has one meaning, and no bit of it is dropped (the ignored Y of `8XY6`
and `8XYE` included, R93). -/
def Obligations.EncodeOfDecodeIsIdentity : Prop :=
  ∀ (w : Word) (i : Instr), decode w = .ok i → i.wellFormed = true ∧ encode i = w

/-- R98: the nested matches and the flat table keyed by the masked opcode give the same verdict for every
word, the fallback included. -/
def Obligations.NestedAndFlatDecodersAgree : Prop := ∀ w : Word, nestedDecode w = flatDecode w

/-- The illegal words, by family (R96 without its counts). -/
def Obligations.IllegalWordsAreTheListedOnes : Prop :=
  ∀ w : Word, decode w = .error (.invalidOpcode w) ↔
    ((fieldFamily w = 0x5 ∨ fieldFamily w = 0x9) ∧ fieldN w ≠ 0x0) ∨
    (fieldFamily w = 0x8 ∧ fieldN w ∈ ([0x8, 0x9, 0xA, 0xB, 0xC, 0xD, 0xF] : List (Fin 16))) ∨
    (fieldFamily w = 0xE ∧ fieldNN w ∉ [0x9E#8, 0xA1#8]) ∨
    (fieldFamily w = 0xF ∧
      fieldNN w ∉ [0x07#8, 0x0A#8, 0x15#8, 0x18#8, 0x1E#8, 0x29#8, 0x33#8, 0x55#8, 0x65#8])

/-- Words written out from the patterns of R94 decode to their instructions. -/
def Obligations.WrittenOutWordsDecode : Prop :=
  decode 0x00EE#16 = .ok .op00EE ∧ decode 0x2ABC#16 = .ok (.op2NNN 0xABC#12) ∧
  decode 0x37C1#16 = .ok (.op3XNN 7 0xC1#8) ∧ decode 0x8A54#16 = .ok (.op8XY4 0xA 0x5) ∧
  decode 0xD12F#16 = .ok (.opDXYN 1 2 0xF) ∧ decode 0xE3A1#16 = .ok (.opEXA1 3) ∧
  decode 0xF265#16 = .ok (.opFX65 2)

/-- R95 and R144: in family 0x0 the whole-word tests come first, and every other word is `0NNN`, which
executes as a no-op. -/
def Obligations.FamilyZeroIsClearReturnOrNoOp : Prop :=
  decode 0x00E0#16 = .ok .op00E0 ∧ decode 0x00EE#16 = .ok .op00EE ∧
  (∀ w : Word, fieldFamily w = 0x0 → w ≠ 0x00E0#16 → w ≠ 0x00EE#16 →
    decode w = .ok (.op0NNN (fieldNNN w))) ∧
  ∀ (nnn : BitVec 12) (s : State), exec (.op0NNN nnn) s = .next s

/-! ## Reset and start (spec/70_reset_and_hazards.md) -/

/-- The value of every state element after construction (R350), for every choice of parameters. The values
the source does not give are the spec's decision D3 (notes/assumptions/3.md). -/
def Obligations.ConstructionLeavesResetValues : Prop :=
  State.reset = State.construct defaultConfig ∧
  ∀ c : Config, let s := State.construct c
    (∀ (a : Nat) (h : a < 80), s.readByte a = c.font[a]) ∧
    (∀ a, 0x050 ≤ a → a ≤ 0xFFF → s.readByte a = 0x00#8) ∧
    (∀ r, s.readV r = 0x00#8) ∧ s.i = 0x0000#16 ∧ s.pc = 0x0200#16 ∧ s.callStack = [] ∧
    s.dt = 0#8 ∧ s.st = 0#8 ∧ (∀ x y, s.fb.pixel x y = false) ∧ (∀ k, s.keyDown k = false) ∧
    s.romName = none ∧ s.romSize = none ∧ s.opcodesPerFrame = c.opfInit ∧ s.running = false ∧
    s.stepOnce = false ∧ s.exitRequested = false ∧ s.error = none ∧ s.currentFrame = 0 ∧
    s.actualFrameTime = 0 ∧ s.frameTimeWithSleep = 0 ∧ s.fps = 0 ∧ s.wait = none ∧
    s.carriedError = 0 ∧ s.snapshot = ⟨s.toMachineState, false⟩ ∧ s.cmdFifo = [] ∧
    s.schedulerState = .idle

/-- R351: after construction and `SetRunning(true)` or `StepFrame`, the first batch is entered with the
fetch of the word at 0x200 next. -/
def Obligations.FirstInstructionIsTheWordAtEntryPoint : Prop :=
  ∀ (c : Config) (cmd : Command), cmd = .setRunning true ∨ cmd = .stepFrame →
    ∃ t, steps 4 { State.construct c with cmdFifo := [cmd] } = .next t ∧
      t.phase = .batch ∧ t.batchLeft = c.opfInit.toNat ∧ t.enabled = true ∧ t.pc = 0x200#16 ∧
      t.fetch = .ok (wordOfBytes (t.readByte 0x200) (t.readByte 0x201))

/-! ## Fetch, decode, dispatch (spec/40_fetch_dispatch.md) -/

/-- R120 and decision D4: a fetch from a PC above 0xFFE is a `MemoryFault` without an opcode, its target the
lowest of PC, PC + 1 above 0xFFF, and PC is left unchanged; inside a batch it ends the batch (R281). -/
def Obligations.FetchBeyondMemoryFaults : Prop :=
  ∀ s : State, 0xFFE < s.pc.toNat →
    executeInstruction s = .next { s with
      error := some (s.error.getD (.memoryFault none s.pc (max 0x1000 s.pc.toNat) .outOfRange)) } ∧
    (s.phase = .batch → s.batchLeft ≠ 0 → s.enabled = true →
      step s = .next { s with
        error := some (.memoryFault none s.pc (max 0x1000 s.pc.toNat) .outOfRange), batchLeft := 0 })

/-- Inside a batch, a step whose two bytes at PC decode to i is `exec i` on the state with PC advanced by 2
and the instruction counted off; then the batch goes on, or an error ends it, or an entered key wait
publishes and leaves it (R120 to R124, spec/46_control_plane.md R281). -/
def Obligations.StepRunsTheDecodedInstruction : Prop :=
  ∀ (s t : State) (n : Nat) (i : Instr), s.phase = .batch → s.batchLeft = n + 1 → s.enabled = true →
    s.pc.toNat ≤ 0xFFE →
    decode (wordOfBytes (s.readByte s.pc.toNat) (s.readByte (s.pc.toNat + 1))) = .ok i →
    exec i { s with pc := s.pc + 2#16, batchLeft := n } = .next t →
    t.exitRequested = false ∧
    (t.error = none → t.wait = none → step s = .next t) ∧
    (t.error ≠ none → step s = .next { t with batchLeft := 0 }) ∧
    (t.error = none → t.wait ≠ none → step s = .next { t with
      snapshot := ⟨t.toMachineState, true⟩, batchLeft := 0, phase := .pacing })

/-- R122, R311: an illegal word raises `InvalidOpcode` with the word and the fetch address, PC stays
advanced, nothing else executes, and the batch is over. -/
def Obligations.StepOnIllegalWordRaisesInvalidOpcode : Prop :=
  ∀ (s : State) (w : Word), s.phase = .batch → s.batchLeft ≠ 0 → s.enabled = true → s.pc.toNat ≤ 0xFFE →
    w = wordOfBytes (s.readByte s.pc.toNat) (s.readByte (s.pc.toNat + 1)) →
    decode w = .error (.invalidOpcode w) →
    step s = .next { s with
      pc := s.pc + 2#16, error := some (.invalidOpcode w s.pc), batchLeft := 0 }

/-- R125: where the scheduler may not call the instruction step, a step that would is refused. -/
def Obligations.StepOutsideEnabledBatchIsRefused : Prop :=
  ∀ s : State, s.phase = .batch → s.batchLeft ≠ 0 → s.enabled = false →
    step s = .refused .stepNotEnabled

/-! ## Control flow (spec/41_control_flow.md) -/

/-- R143, R312: `00EE` puts the popped address in PC; on an empty stack it raises `InvalidReturn` with the
fetch address and changes nothing else. The error register is clear, as it is wherever the instruction
step is defined (spec/40_fetch_dispatch.md R125). -/
def Obligations.ReturnPopsTheCallStack : Prop :=
  (∀ (s : State) (rest : List Word) (a : Word), s.callStack = rest ++ [a] →
    exec .op00EE s = .next { s with pc := a, callStack := rest }) ∧
  (∀ s : State, s.callStack = [] → s.error = none →
    exec .op00EE s = .next { s with error := some (.invalidReturn s.fetchAddr) })

/-- R145, R147: `1NNN` leaves NNN in PC; `BNNN` leaves the exact sum NNN + V0, not masked to 12 bits. -/
def Obligations.JumpsSetThePc : Prop :=
  ∀ (s : State) (nnn : BitVec 12),
    (∃ t, exec (.op1NNN nnn) s = .next t ∧ t = { s with pc := t.pc } ∧ t.pc.toNat = nnn.toNat) ∧
    (∃ t, exec (.opBNNN nnn) s = .next t ∧ t = { s with pc := t.pc } ∧
      t.pc.toNat = nnn.toNat + (s.readV 0).toNat)

/-- R146, R142: `2NNN` pushes the advanced PC and jumps; on a full stack of finite `STACK_DEPTH` (decision
D7) it raises `StackOverflow` and pushes nothing. -/
def Obligations.CallPushesTheAdvancedPc : Prop :=
  ∀ (s : State) (nnn : BitVec 12),
    ((∀ n, s.config.stackDepth = some n → s.callStack.length ≠ n) →
      ∃ t, exec (.op2NNN nnn) s = .next t ∧ t = { s with pc := t.pc, callStack := t.callStack } ∧
        t.pc.toNat = nnn.toNat ∧ t.callStack = s.callStack ++ [s.pc]) ∧
    (s.config.stackDepth = some s.callStack.length →
      exec (.op2NNN nnn) s
        = .next { s with error := some (s.error.getD (.stackOverflow s.fetchAddr)) })

/-- R148 to R151: the register skips add 2 to PC exactly when their condition holds, and change nothing
else. -/
def Obligations.RegisterSkipsFollowTheirCondition : Prop :=
  ∀ (s : State) (x y : Reg) (nn : Byte),
    exec (.op3XNN x nn) s = .next { s with pc := if s.readV x = nn then s.pc + 2#16 else s.pc } ∧
    exec (.op4XNN x nn) s = .next { s with pc := if s.readV x ≠ nn then s.pc + 2#16 else s.pc } ∧
    exec (.op5XY0 x y) s
      = .next { s with pc := if s.readV x = s.readV y then s.pc + 2#16 else s.pc } ∧
    exec (.op9XY0 x y) s
      = .next { s with pc := if s.readV x ≠ s.readV y then s.pc + 2#16 else s.pc }

/-! ## ALU (spec/42_alu.md) -/

/-- R171, R172, R173: load, add without flag, copy. Only VX changes, VF included among the unchanged ones
unless X = F. -/
def Obligations.LoadAddCopyWriteOnlyVX : Prop :=
  ∀ (s : State) (x y : Reg) (nn : Byte),
    (∃ t, exec (.op6XNN x nn) s = .next t ∧ t = { s with v := t.v } ∧ t.readV x = nn ∧
      ∀ r, r ≠ x → t.readV r = s.readV r) ∧
    (∃ t, exec (.op7XNN x nn) s = .next t ∧ t = { s with v := t.v } ∧
      (t.readV x).toNat = ((s.readV x).toNat + nn.toNat) % 256 ∧
      ∀ r, r ≠ x → t.readV r = s.readV r) ∧
    (∃ t, exec (.op8XY0 x y) s = .next t ∧ t = { s with v := t.v } ∧ t.readV x = s.readV y ∧
      ∀ r, r ≠ x → t.readV r = s.readV r)

/-- R174, R175, R176: OR, AND, XOR into VX, then VF is reset to 0 (VF last when X = F, decision D10). -/
def Obligations.LogicResetsVF : Prop :=
  ∀ (s : State) (x y : Reg),
    (∃ t, exec (.op8XY1 x y) s = .next t ∧ t = { s with v := t.v } ∧ t.readV 15 = 0#8 ∧
      (x ≠ 15 → t.readV x = s.readV x ||| s.readV y) ∧
      ∀ r, r ≠ x → r ≠ 15 → t.readV r = s.readV r) ∧
    (∃ t, exec (.op8XY2 x y) s = .next t ∧ t = { s with v := t.v } ∧ t.readV 15 = 0#8 ∧
      (x ≠ 15 → t.readV x = s.readV x &&& s.readV y) ∧
      ∀ r, r ≠ x → r ≠ 15 → t.readV r = s.readV r) ∧
    (∃ t, exec (.op8XY3 x y) s = .next t ∧ t = { s with v := t.v } ∧ t.readV 15 = 0#8 ∧
      (x ≠ 15 → t.readV x = s.readV x ^^^ s.readV y) ∧
      ∀ r, r ≠ x → r ≠ 15 → t.readV r = s.readV r)

/-- R177: the sum modulo 256 into VX, the carry into VF (VF last when X = F, decision D10). -/
def Obligations.AddSetsCarry : Prop :=
  ∀ (s : State) (x y : Reg), ∃ t, exec (.op8XY4 x y) s = .next t ∧ t = { s with v := t.v } ∧
    t.readV 15 = (if 255 < (s.readV x).toNat + (s.readV y).toNat then 1#8 else 0#8) ∧
    (x ≠ 15 → (t.readV x).toNat = ((s.readV x).toNat + (s.readV y).toNat) % 256) ∧
    ∀ r, r ≠ x → r ≠ 15 → t.readV r = s.readV r

/-- R178, R180: the difference modulo 256 into VX, 1 into VF exactly when no borrow occurs (VF last when
X = F, decision D10). -/
def Obligations.SubtractSetsNoBorrow : Prop :=
  ∀ (s : State) (x y : Reg),
    (∃ t, exec (.op8XY5 x y) s = .next t ∧ t = { s with v := t.v } ∧
      t.readV 15 = (if s.readV y ≤ s.readV x then 1#8 else 0#8) ∧
      (x ≠ 15 → t.readV x = s.readV x - s.readV y) ∧
      ∀ r, r ≠ x → r ≠ 15 → t.readV r = s.readV r) ∧
    (∃ t, exec (.op8XY7 x y) s = .next t ∧ t = { s with v := t.v } ∧
      t.readV 15 = (if s.readV x ≤ s.readV y then 1#8 else 0#8) ∧
      (x ≠ 15 → t.readV x = s.readV y - s.readV x) ∧
      ∀ r, r ≠ x → r ≠ 15 → t.readV r = s.readV r)

/-- R179, R181: the shifts read VX and never VY; VF gets the bit shifted out, and when X = F (decision D11)
VF ends as the shift of that bit. -/
def Obligations.ShiftsMoveOneBitIntoVF : Prop :=
  ∀ (s : State) (x y : Reg),
    (∃ t, exec (.op8XY6 x y) s = .next t ∧ t = { s with v := t.v } ∧
      (x ≠ 15 → (t.readV x).toNat = (s.readV x).toNat / 2 ∧
        (t.readV 15).toNat = (s.readV x).toNat % 2) ∧
      (x = 15 → t.readV 15 = 0#8) ∧ ∀ r, r ≠ x → r ≠ 15 → t.readV r = s.readV r) ∧
    (∃ t, exec (.op8XYE x y) s = .next t ∧ t = { s with v := t.v } ∧
      (x ≠ 15 → (t.readV x).toNat = 2 * (s.readV x).toNat % 256 ∧
        (t.readV 15).toNat = (s.readV x).toNat / 128) ∧
      (x = 15 → (t.readV 15).toNat = 2 * ((s.readV 15).toNat / 128)) ∧
      ∀ r, r ≠ x → r ≠ 15 → t.readV r = s.readV r)

/-- R182: one draw from `rand_in`, masked, into VX; the draw is a free value (decision D21), so the
statement holds for every value of it; only VX and the port change. -/
def Obligations.RandomIsOneMaskedDraw : Prop :=
  ∀ (s : State) (x : Reg) (nn : Byte), ∃ t, exec (.opCXNN x nn) s = .next t ∧
    t = { s with v := t.v, randIn := ⟨s.randIn.pending.tail, s.randIn.taken + 1⟩ } ∧
    t.readV x = s.rand8 &&& nn ∧ ∀ r, r ≠ x → t.readV r = s.readV r

/-! ## Index register and memory (spec/43_index_memory.md) -/

/-- R200: `ANNN` leaves NNN in I and changes nothing else. -/
def Obligations.LoadIndexStoresNNN : Prop :=
  ∀ (s : State) (nnn : BitVec 12), ∃ t, exec (.opANNN nnn) s = .next t ∧ t = { s with i := t.i } ∧
    t.i.toNat = nnn.toNat

/-- R201, R202: `FX1E` stores the exact sum unmasked up to 0xFFFF and, past it, faults or wraps by
`I_OVERFLOW` (decision D6); `FX29` stores VX * 5 for every VX (decision D32); VF is not written. -/
def Obligations.IndexArithmetic : Prop :=
  ∀ (s : State) (x : Reg),
    (s.i.toNat + (s.readV x).toNat ≤ 0xFFFF ∨ s.config.iOverflow = .wrap →
      ∃ t, exec (.opFX1E x) s = .next t ∧ t = { s with i := t.i } ∧
        t.i.toNat = (s.i.toNat + (s.readV x).toNat) % 65536) ∧
    (0xFFFF < s.i.toNat + (s.readV x).toNat → s.config.iOverflow = .fault →
      exec (.opFX1E x) s = .next { s with
        error := some (s.error.getD (.iOverflow (encode (.opFX1E x)) s.fetchAddr)) }) ∧
    ∃ t, exec (.opFX29 x) s = .next t ∧ t = { s with i := t.i } ∧
      t.i.toNat = 5 * (s.readV x).toNat

/-- R203: `FX33` stores the three decimal digits of VX at I, hundreds first; every other byte, and
everything but memory, is unchanged. -/
def Obligations.BcdStoresThreeDigits : Prop :=
  ∀ (s : State) (x : Reg), Memory.wf s.config.font s.mem → s.addressI 2 ≤ 0xFFF →
    (s.config.fontWrite = .fault → 0x04F < s.addressI 0) →
    ∃ t, exec (.opFX33 x) s = .next t ∧ t = { s with mem := t.mem } ∧
      (t.readByte (s.addressI 0)).toNat * 100 + (t.readByte (s.addressI 1)).toNat * 10
        + (t.readByte (s.addressI 2)).toNat = (s.readV x).toNat ∧
      (t.readByte (s.addressI 0)).toNat ≤ 2 ∧ (t.readByte (s.addressI 1)).toNat ≤ 9 ∧
      (t.readByte (s.addressI 2)).toNat ≤ 9 ∧
      ∀ a, a < s.addressI 0 ∨ s.addressI 2 < a → t.readByte a = s.readByte a

/-- R204: `FX55` stores V0 to VX at I, I + 1, …; I, every other byte, and everything but memory are
unchanged. -/
def Obligations.StoreRegistersAtI : Prop :=
  ∀ (s : State) (x : Reg), Memory.wf s.config.font s.mem → s.addressI x.val ≤ 0xFFF →
    (s.config.fontWrite = .fault → 0x04F < s.addressI 0) →
    ∃ t, exec (.opFX55 x) s = .next t ∧ t = { s with mem := t.mem } ∧
      (∀ r : Reg, r ≤ x → t.readByte (s.addressI r.val) = s.readV r) ∧
      ∀ a, a < s.addressI 0 ∨ s.addressI x.val < a → t.readByte a = s.readByte a

/-- R205: `FX65` loads V0 to VX from I, I + 1, …; I, memory, the other registers and everything else are
unchanged. -/
def Obligations.LoadRegistersFromI : Prop :=
  ∀ (s : State) (x : Reg), s.addressI x.val ≤ 0xFFF →
    ∃ t, exec (.opFX65 x) s = .next t ∧ t = { s with v := t.v } ∧
      (∀ r : Reg, r ≤ x → t.readV r = s.readByte (s.addressI r.val)) ∧
      ∀ r : Reg, x < r → t.readV r = s.readV r

/-- R61, R63, R64 and decisions D4, D5, D14: `FX33`, `FX55`, `FX65` and `DXYN` out of 0x000-0xFFF, and the
two stores into a protected font, raise `MemoryFault` for the lowest failing address and access
nothing. -/
def Obligations.OutOfRangeAccessesRaiseMemoryFault : Prop :=
  ∀ (s : State) (x y : Reg) (n : Fin 16),
    let fault (i : Instr) (target : Nat) (kind : FaultKind) : State := { s with
      error := some (s.error.getD (.memoryFault (some (encode i)) s.fetchAddr target kind)) }
    let beyond := max 0x1000 (s.addressI 0)
    (0xFFF < s.addressI 2 →
      exec (.opFX33 x) s = .next (fault (.opFX33 x) beyond .outOfRange)) ∧
    (0xFFF < s.addressI x.val →
      exec (.opFX55 x) s = .next (fault (.opFX55 x) beyond .outOfRange) ∧
      exec (.opFX65 x) s = .next (fault (.opFX65 x) beyond .outOfRange)) ∧
    (n ≠ 0 → 0x1000 < s.addressI n.val →
      exec (.opDXYN x y n) s = .next (fault (.opDXYN x y n) beyond .outOfRange)) ∧
    (s.config.fontWrite = .fault → s.addressI 0 ≤ 0x04F →
      exec (.opFX33 x) s = .next (fault (.opFX33 x) (s.addressI 0) .fontWrite) ∧
      exec (.opFX55 x) s = .next (fault (.opFX55 x) (s.addressI 0) .fontWrite))

/-! ## Display (spec/44_display.md) -/

/-- R220: `00E0` turns every pixel off, keeps the grid's shape, and changes nothing else (VF included). -/
def Obligations.ClearTurnsEveryPixelOff : Prop :=
  ∀ s : State, ∃ t, exec .op00E0 s = .next t ∧ t = { s with fb := t.fb } ∧
    Framebuffer.wf s.config.fbWidth s.config.fbHeight t.fb ∧ ∀ px py, t.fb.pixel px py = false

/-- R221 (bit order: decision D44; latched coordinates: D11): on a grid at least 8 wide and N high, `DXYN`
toggles exactly the pixels its 1 bits land on, wrapping on both axes, and VF reports whether one of them
was on. -/
def Obligations.DrawXorsSpriteAndReportsCollision : Prop :=
  ∀ (s : State) (x y : Reg) (n : Fin 16), GridInv s → n = 0 ∨ s.addressI n.val ≤ 0x1000 →
    8 ≤ s.config.fbWidth → n.val ≤ s.config.fbHeight →
    let lands (r c px py : Nat) : Prop :=
      r < n.val ∧ c < 8 ∧ (s.readByte (s.addressI r)).getLsbD (7 - c) = true ∧
      px = ((s.readV x).toNat + c) % s.config.fbWidth ∧
      py = ((s.readV y).toNat + r) % s.config.fbHeight
    ∃ t, exec (.opDXYN x y n) s = .next t ∧ t = { s with fb := t.fb, v := t.v } ∧
      (∀ r, r ≠ 15 → t.readV r = s.readV r) ∧
      (∀ px py, (t.fb.pixel px py = true) ↔
        ¬ ((s.fb.pixel px py = true) ↔ ∃ r c, lands r c px py)) ∧
      ((∃ r c px py, lands r c px py ∧ s.fb.pixel px py = true) → t.readV 15 = 1#8) ∧
      ((¬ ∃ r c px py, lands r c px py ∧ s.fb.pixel px py = true) → t.readV 15 = 0#8)

/-- R221 on every grid, also one narrower than 8 or lower than N, where several 1 bits land on one pixel
and the loop order decides. `points` are the pixels of the 1 bits in loop order; a pixel before the k-th
toggle is its old value turned once for each earlier landing. Every pixel is turned once for each landing,
and VF = 1 exactly if some toggle found its pixel on, on dimensions that are positive (decision D1). The
grid keeps its shape, and only the framebuffer and VF change. -/
def Obligations.DrawFollowsTheLoopOrderOnEveryGrid : Prop :=
  ∀ (s : State) (x y : Reg) (n : Fin 16), GridInv s → n = 0 ∨ s.addressI n.val ≤ 0x1000 →
    let points : List (Nat × Nat) := (List.range n.val).flatMap fun r =>
      ((List.range 8).filter fun c => (s.readByte (s.addressI r)).getLsbD (7 - c)).map fun c =>
        (((s.readV x).toNat + c) % s.config.fbWidth, ((s.readV y).toNat + r) % s.config.fbHeight)
    let pixelBefore (k : Nat) (p : Nat × Nat) : Bool :=
      s.fb.pixel p.1 p.2 ^^ ((points.take k).count p % 2 == 1)
    ∃ t, exec (.opDXYN x y n) s = .next t ∧ t = { s with fb := t.fb, v := t.v } ∧ GridInv t ∧
      (∀ r, r ≠ 15 → t.readV r = s.readV r) ∧ (t.readV 15 = 0#8 ∨ t.readV 15 = 1#8) ∧
      (n = 0 → t.fb = s.fb ∧ t.readV 15 = 0#8) ∧
      (0 < s.config.fbWidth → 0 < s.config.fbHeight →
        (∀ px py, t.fb.pixel px py = pixelBefore points.length (px, py)) ∧
        (t.readV 15 = 1#8 ↔ ∃ (k : Nat) (h : k < points.length), pixelBefore k points[k] = true))

/-- R222: drawing the same sprite at the same place twice restores the framebuffer, on every grid; on a
target whose pixels are all off (and a grid at least 8 wide and N high) the first draw reports 0 and the
second 1, unless the sprite has no 1 bit. X and Y other than F: VF is a result of the first draw. -/
def Obligations.DrawingTwiceRestoresTheFramebuffer : Prop :=
  ∀ (s : State) (x y : Reg) (n : Fin 16), GridInv s → x ≠ 15 → y ≠ 15 →
    n = 0 ∨ s.addressI n.val ≤ 0x1000 →
    ∃ t u, exec (.opDXYN x y n) s = .next t ∧ exec (.opDXYN x y n) t = .next u ∧
      u.fb = s.fb ∧
      ((∀ px py, s.fb.pixel px py = false) → 8 ≤ s.config.fbWidth → n.val ≤ s.config.fbHeight →
        t.readV 15 = 0#8 ∧
        ((∃ r c, r < n.val ∧ c < 8 ∧ (s.readByte (s.addressI r)).getLsbD (7 - c) = true) →
          u.readV 15 = 1#8) ∧
        ((∀ r, r < n.val → s.readByte (s.addressI r) = 0#8) → u.readV 15 = 0#8))

/-! ## Keys and timers (spec/45_input_timers.md) -/

/-- R240, R241: the key skips test the latch; VX above 0xF is a `KeyIndexFault` with the word, the fetch
address and VX (decision D8). -/
def Obligations.KeySkipsTestTheLatch : Prop :=
  ∀ (s : State) (x : Reg),
    (∀ k : Fin 16, (s.readV x).toNat = k.val →
      exec (.opEX9E x) s
        = .next { s with pc := if s.keyDown k = true then s.pc + 2#16 else s.pc } ∧
      exec (.opEXA1 x) s
        = .next { s with pc := if s.keyDown k = false then s.pc + 2#16 else s.pc }) ∧
    (0xF < (s.readV x).toNat →
      exec (.opEX9E x) s = .next { s with
        error := some (s.error.getD (.keyIndexFault (encode (.opEX9E x)) s.fetchAddr (s.readV x))) } ∧
      exec (.opEXA1 x) s = .next { s with
        error := some (s.error.getD (.keyIndexFault (encode (.opEXA1 x)) s.fetchAddr (s.readV x))) })

/-- R242, R243, R244: the timer instructions copy DT to VX, VX to DT, VX to ST, and change nothing else. -/
def Obligations.TimerInstructionsCopy : Prop :=
  ∀ (s : State) (x : Reg),
    (∃ t, exec (.opFX07 x) s = .next t ∧ t = { s with v := t.v } ∧ t.readV x = s.dt ∧
      ∀ r, r ≠ x → t.readV r = s.readV r) ∧
    exec (.opFX15 x) s = .next { s with dt := s.readV x } ∧
    exec (.opFX18 x) s = .next { s with st := s.readV x }

/-- R245, R281: executed inside a batch, `FX0A` enters the key wait with the latch as it stands and the
count of instructions left, publishes the waiting snapshot, and leaves the batch; no register but PC is
written, and the timers and the frame count stand (decisions D12, D13). -/
def Obligations.KeyWaitIsEnteredInsideABatch : Prop :=
  (∀ (s : State) (x : Reg),
    exec (.opFX0A x) s = .next { s with wait := some ⟨x, s.keys, s.batchLeft⟩ }) ∧
  ∀ (s : State) (n : Nat) (x : Reg), s.phase = .batch → s.batchLeft = n + 1 → s.enabled = true →
    s.pc.toNat ≤ 0xFFE →
    wordOfBytes (s.readByte s.pc.toNat) (s.readByte (s.pc.toNat + 1)) = encode (.opFX0A x) →
    step s = .next { s with
      pc := s.pc + 2#16, wait := some ⟨x, s.keys, n⟩, batchLeft := 0, phase := .pacing,
      snapshot := ⟨{ s.toMachineState with pc := s.pc + 2#16 }, true⟩ }

/-- R246, R282 and decision D12: a poll that sees a key down which the last poll saw up writes the lowest
such key to VX, ends the wait and resumes the batch with the saved count; one that sees none remembers
the latch and publishes. -/
def Obligations.PollCompletesOnLowestPressedKey : Prop :=
  ∀ (s : State) (w : KeyWait), s.phase = .deciding → s.exitRequested = false → s.error = none →
    s.wait = some w →
    (∀ k : Fin 16, s.keyDown k = true → w.prevKeys[k.val] = false →
      (∀ j : Fin 16, j < k → ¬ (s.keyDown j = true ∧ w.prevKeys[j.val] = false)) →
      ∃ t, step s = .next t ∧
        t = { s with v := t.v, wait := none, phase := .batch, batchLeft := w.remaining } ∧
        (t.readV w.x).toNat = k.val ∧ ∀ r, r ≠ w.x → t.readV r = s.readV r) ∧
    ((∀ k : Fin 16, ¬ (s.keyDown k = true ∧ w.prevKeys[k.val] = false)) →
      step s = .next { s with
        wait := some { w with prevKeys := s.keys }, phase := .pacing,
        snapshot := ⟨s.toMachineState, true⟩ })

/-- R248 and decision D13 (notes/assumptions/12.md): as long as the wait is pending no instruction
executes, the timers are not decremented, the frame count is not incremented and `step_once` is not
cleared, whatever commands are applied (these may change memory, the latch and the control flags). -/
def Obligations.KeyWaitHoldsRegistersTimersAndFrameCount : Prop :=
  ∀ s t : State, SchedulerInv s → s.wait.isSome = true → step s = .next t → t.wait.isSome = true →
    t.v = s.v ∧ t.i = s.i ∧ t.pc = s.pc ∧ t.callStack = s.callStack ∧ t.fb = s.fb ∧ t.dt = s.dt ∧
    t.st = s.st ∧ t.randIn = s.randIn ∧ t.currentFrame ≤ s.currentFrame ∧
    (s.stepOnce = true → t.stepOnce = true)

/-! ## Command port (spec/46_control_plane.md) -/

/-- R261 to R267, R278: one step of the drain takes the oldest command off the FIFO and applies it: it
writes its field and nothing else, whatever the scheduler state. -/
def Obligations.DrainAppliesTheOldestCommand : Prop :=
  ∀ (s : State) (c : Command) (rest : List Command), s.phase = .draining → s.cmdFifo = c :: rest →
    let s' := { s with cmdFifo := rest, applied := s.applied + 1 }
    step s = .next (s'.applyCommand c) ∧
    (∀ b, s'.applyCommand (.setRunning b) = { s' with running := b }) ∧
    s'.applyCommand .stepFrame = { s' with stepOnce := true } ∧
    (∀ n, s'.applyCommand (.setOpcodesPerFrame n) = { s' with opcodesPerFrame := n }) ∧
    (∀ keys, s'.applyCommand (.setKeysDown keys) = { s' with keys := keys }) ∧
    s'.applyCommand .exit = { s' with exitRequested := true }

/-- R264, R68, R9 and decisions D19, D43: a `LoadRom` of at most 3584 bytes (none included) puts the path out
on `rom_read`, takes the answer for it, puts the bytes at 0x200, records path and length, and changes
nothing else. -/
def Obligations.LoadRomStoresTheBytes : Prop :=
  ∀ (s : State) (path : String) (b : List Byte), Memory.wf s.config.font s.mem →
    s.romReply path = .bytes b → b.length ≤ 3584 →
    let t := s.applyCommand (.loadRom path)
    t = { s with
      mem := t.mem, romName := some path, romSize := some b.length
      romRead := ⟨⟨s.romRead.pending.eraseP (·.1 == path), s.romRead.taken + 1⟩, some path⟩ } ∧
    (∀ (k : Nat) (h : k < b.length), t.readByte (0x200 + k) = b[k]) ∧
    ∀ a, a < 0x200 ∨ 0x200 + b.length ≤ a → t.readByte a = s.readByte a

/-- R264, R9, R317, R318, R319: a `LoadRom` whose read fails or whose file is longer than 3584 bytes puts the
path out, takes the answer for it and sets the error, if none is set (decision D27, notes/assumptions/19.md);
it mutates neither memory nor metadata. -/
def Obligations.FailedLoadRomOnlySetsTheError : Prop :=
  ∀ (s : State) (path : String),
    let asked : RequestPort String (String × RomReply) :=
      ⟨⟨s.romRead.pending.eraseP (·.1 == path), s.romRead.taken + 1⟩, some path⟩
    (∀ e, s.romReply path = .ioError e →
      s.applyCommand (.loadRom path)
        = { s with error := some (s.error.getD (.invalidRom path e)), romRead := asked }) ∧
    (∀ b, s.romReply path = .bytes b → 3584 < b.length →
      s.applyCommand (.loadRom path)
        = { s with error := some (s.error.getD (.romTooLarge path b.length 3584)), romRead := asked })

/-- R278, R279: left to itself a drain applies every queued command in FIFO order, publishes exactly when
one was applied (decision D16), and goes on to the terminal check. -/
def Obligations.DrainAppliesAllInOrderThenPublishes : Prop :=
  ∀ s : State, s.phase = .draining →
    let u := s.cmdFifo.foldl State.applyCommand s
    ∃ t, steps (s.cmdFifo.length + 1) s = .next t ∧
      t = { u with cmdFifo := [], applied := s.applied + s.cmdFifo.length, phase := .deciding,
                   snapshot := t.snapshot } ∧
      (0 < s.applied + s.cmdFifo.length → t.snapshot = ⟨u.toMachineState, u.wait.isSome⟩) ∧
      (s.applied + s.cmdFifo.length = 0 → t.snapshot = s.snapshot)

/-- R9, R260, R292, R289: what the outside world can do between two steps. An enqueue appends the command
and changes nothing else; a producer facing a full bounded FIFO has no step (decision D22); each host answer
goes to the end of its own port, changes nothing else, and is what the next read of an empty port gives
(for `rom_read`, the next read of that path); a read of the snapshot gives what was last published; a
replacement engine, built only after the loop has terminated, is a freshly constructed one. The form of the
ports is the model's (notes/assumptions/9.md, 23.md). -/
def Obligations.EnvironmentActionsChangeOnlyWhatTheyName : Prop :=
  ∀ (s : State) (c : Command) (cfg : Config) (b : Byte) (q : Duration) (path : String) (r : RomReply),
    ((∀ n, s.config.cmdFifoDepth = some n → s.cmdFifo.length < n) →
      s.enqueue c = some { s with cmdFifo := s.cmdFifo ++ [c] }) ∧
    (∀ n, s.config.cmdFifoDepth = some n → n ≤ s.cmdFifo.length → s.enqueue c = none) ∧
    s.supplyRand b = { s with randIn := ⟨s.randIn.pending ++ [b], s.randIn.taken⟩ } ∧
    (s.randIn.pending = [] → (s.supplyRand b).rand8 = b) ∧
    s.supplyClock q = { s with clockIn := ⟨s.clockIn.pending ++ [q], s.clockIn.taken⟩ } ∧
    (s.clockIn.pending = [] → 0 ≤ q → (s.supplyClock q).clockReading = s.clock + q) ∧
    s.supplySlept q = { s with
      sleepOut := ⟨⟨s.sleepOut.pending ++ [q], s.sleepOut.taken⟩, s.sleepOut.request⟩ } ∧
    (s.sleepOut.pending = [] → 0 ≤ q → (s.supplySlept q).hostSlept = q) ∧
    s.supplyRom path r = { s with
      romRead := ⟨⟨s.romRead.pending ++ [(path, r)], s.romRead.taken⟩, s.romRead.request⟩ } ∧
    ((∀ p ∈ s.romRead.pending, p.1 ≠ path) → (s.supplyRom path r).romReply path = r) ∧
    (∀ other, other ≠ path → (s.supplyRom path r).romReply other = s.romReply other) ∧
    s.publish.readSnapshot = ⟨s.toMachineState, s.wait.isSome⟩ ∧ s.readSnapshot = s.snapshot ∧
    (s.phase = .terminated → s.replaceEngine cfg = some (State.construct cfg)) ∧
    (s.phase ≠ .terminated → s.replaceEngine cfg = none)

/-! ## Frame scheduler (spec/46_control_plane.md) -/

/-- R280 to R282 (precedence: decision D34): at step 2 a requested exit terminates the loop without a
publish, whatever the error; else an error skips step 3; else, no wait pending, a batch of
`opcodes_per_frame` instructions begins exactly if `running or step_once`. After termination the block
has no step. -/
def Obligations.TerminalCheckThenChoiceOfStep3 : Prop :=
  ∀ s : State,
    (s.phase = .deciding →
      (s.exitRequested = true → step s = .next { s with phase := .terminated, wait := none }) ∧
      (s.exitRequested = false → s.error ≠ none → step s = .next { s with phase := .pacing }) ∧
      (s.exitRequested = false → s.error = none → s.wait = none →
        (s.running = true ∨ s.stepOnce = true →
          step s = .next { s with phase := .batch, batchLeft := s.opcodesPerFrame.toNat }) ∧
        (s.running = false → s.stepOnce = false → step s = .next { s with phase := .pacing }))) ∧
    (s.phase = .terminated → step s = .fault .loopTerminated)

/-- R283, R32: the end of a frame decrements each timer by one, floored at 0, then publishes, then counts
the frame and clears `step_once`; so the snapshot shows the decremented timers and the old count. -/
def Obligations.EndOfFrameDecrementsPublishesCounts : Prop :=
  ∀ s : State, s.phase = .batch → s.batchLeft = 0 →
    ∃ t, step s = .next t ∧
      t = { s with dt := t.dt, st := t.st, snapshot := t.snapshot, phase := .pacing,
                   currentFrame := s.currentFrame + 1, stepOnce := false } ∧
      t.dt.toNat = s.dt.toNat - 1 ∧ t.st.toNat = s.st.toNat - 1 ∧
      t.snapshot = ⟨{ s.toMachineState with dt := t.dt, st := t.st }, s.wait.isSome⟩

/-- R277, R284, R285, R286, R9 and decisions D24, D25, D33. An iteration starts by reading the clock into t0
and entering the drain with nothing applied. Pacing reads the clock again; a negative budget requests no
sleep, any other goes out on `sleep_out` and the measured time is taken in; then the instrumentation. The
clock never runs back, a sleep is never negative, and nothing else is touched. -/
def Obligations.IterationReadsTheClockAndPacingCompensatesDrift : Prop :=
  ∀ s : State, s.clock ≤ s.clockReading ∧ 0 ≤ s.hostSlept ∧
    (s.phase = .iterationStart → step s = .next { s with
      frameStart := s.clockReading, clock := s.clockReading
      clockIn := ⟨s.clockIn.pending.tail, s.clockIn.taken + 1⟩, applied := 0, phase := .draining }) ∧
    (s.phase = .pacing →
      let elapsed := s.clockReading - s.frameStart
      let budget := 1000 / 60 - elapsed + s.carriedError
      let slept := if budget < 0 then 0 else s.hostSlept
      ∃ t, step s = .next t ∧
        t = { s with carriedError := t.carriedError, actualFrameTime := t.actualFrameTime,
                     frameTimeWithSleep := t.frameTimeWithSleep, fps := t.fps,
                     currentFrame := t.currentFrame, clock := s.clockReading,
                     clockIn := ⟨s.clockIn.pending.tail, s.clockIn.taken + 1⟩,
                     sleepOut := t.sleepOut, phase := .iterationStart } ∧
        (budget < 0 → t.carriedError = 0 ∧ t.sleepOut = s.sleepOut) ∧
        (0 ≤ budget → t.carriedError = budget - slept ∧
          t.sleepOut = ⟨⟨s.sleepOut.pending.tail, s.sleepOut.taken + 1⟩, some budget⟩) ∧
        (s.running = true → s.error = none →
          t.actualFrameTime = elapsed ∧ t.frameTimeWithSleep = elapsed + slept ∧
          t.fps = (if elapsed + slept = 0 then 0 else 1000 / (elapsed + slept)) ∧
          t.currentFrame = s.currentFrame) ∧
        (s.running = false ∨ s.error ≠ none →
          t.actualFrameTime = 0 ∧ t.frameTimeWithSleep = 0 ∧ t.fps = 0 ∧ t.currentFrame = 0))

/-- R281, R288 (one iteration's work is bounded): from inside a batch with n instructions left, the
scheduler is at pacing within n + 1 of its own steps, whatever the instructions do. -/
def Obligations.BatchEndsWithinItsCount : Prop :=
  ∀ s : State, SchedulerInv s → s.phase = .batch →
    ∃ k t, k ≤ s.batchLeft + 1 ∧ steps k s = .next t ∧ t.phase = .pacing ∧ t.cmdFifo = s.cmdFifo

/-- R284, R329: with nothing queued, nothing to run and nothing pending, one iteration is four steps that
change only the clock readings, the drift, the time ports and the instrumentation, which is zeroed,
`current_frame` with it and also while errored (decision D25, notes/assumptions/22.md). -/
def Obligations.IdleIterationChangesOnlyTimesAndInstrumentation : Prop :=
  ∀ s : State, s.phase = .iterationStart → s.cmdFifo = [] → s.exitRequested = false →
    s.error ≠ none ∨ (s.wait = none ∧ s.running = false ∧ s.stepOnce = false) →
    ∃ t, steps 4 s = .next t ∧
      t = { s with carriedError := t.carriedError, clock := t.clock, frameStart := s.clockReading,
                   clockIn := ⟨s.clockIn.pending.tail.tail, s.clockIn.taken + 2⟩,
                   sleepOut := t.sleepOut, applied := 0, actualFrameTime := 0,
                   frameTimeWithSleep := 0, fps := 0, currentFrame := 0 }

/-- R288: an `Exit` in the FIFO terminates the loop, from every state the scheduler can be in (a key wait or
an error pending included), within one iteration's worth of steps: the rest of the iteration and the next
drain. -/
def Obligations.ExitTerminatesWithinOneIteration : Prop :=
  ∀ s : State, SchedulerInv s → s.phase ≠ .terminated → Command.exit ∈ s.cmdFifo →
    ∃ k t, steps k s = .next t ∧ t.phase = .terminated ∧
      k ≤ s.batchLeft + s.opcodesPerFrame.toNat + (s.wait.map KeyWait.remaining).getD 0
        + s.cmdFifo.length + 8

/-- R291: the snapshot register changes only at its publish points, and then to a copy of the state that
names the pending wait. -/
def Obligations.SnapshotChangesOnlyAtPublishPoints : Prop :=
  ∀ s t : State, step s = .next t →
    t.snapshot = s.snapshot ∨
    (s.phase = .draining ∧ s.cmdFifo = [] ∧ 0 < s.applied ∧
      t.snapshot = ⟨s.toMachineState, s.wait.isSome⟩) ∨
    (s.phase = .batch ∧ s.batchLeft = 0 ∧
      t.snapshot = ⟨{ s.toMachineState with dt := t.dt, st := t.st }, s.wait.isSome⟩) ∨
    (s.phase = .batch ∧ s.batchLeft ≠ 0 ∧ t.snapshot = ⟨t.toMachineState, true⟩ ∧ t.wait.isSome = true) ∨
    (s.phase = .deciding ∧ s.wait.isSome = true ∧ t.snapshot = ⟨t.toMachineState, true⟩ ∧
      t.wait.isSome = true)

/-- R295: the functional behaviour does not depend on the clock or on the sleep: two states that differ only
in wall-clock time step alike, to states that differ only in wall-clock time. -/
def Obligations.BehaviourDoesNotDependOnTime : Prop :=
  ∀ s s' : State, s.forgetTime = s'.forgetTime →
    (∀ t, step s = .next t → ∃ t', step s' = .next t' ∧ t.forgetTime = t'.forgetTime) ∧
    (∀ r, step s = .fault r → step s' = .fault r) ∧
    (∀ r, step s = .refused r → step s' = .refused r)

/-! ## Errors (spec/60_exceptions.md) -/

/-- R126, R321 (decision D14): errors are precise: an instruction that raises an error leaves everything but
the error register as it found it, PC at the fetch address + 2. -/
def Obligations.InstructionErrorsArePrecise : Prop :=
  ∀ (i : Instr) (s t : State) (e : EngineError), s.error = none → exec i s = .next t →
    t.error = some e → t = { s with error := some e }

/-- R310, R319, R321: an error is terminal: no step changes or clears it, and no instruction executes any
more. -/
def Obligations.ErrorIsTerminal : Prop :=
  ∀ (s t : State) (e : EngineError), SchedulerInv s → s.error = some e → step s = .next t →
    t.error = some e ∧ t.v = s.v ∧ t.i = s.i ∧ t.pc = s.pc ∧ t.callStack = s.callStack ∧
    t.fb = s.fb ∧ t.randIn = s.randIn

/-- The block has one mode and every instruction is available in every state (R324): `exec` always answers a
next state, the error entry included, and never stops the machine. -/
def Obligations.EveryInstructionAnswersANextState : Prop :=
  ∀ (i : Instr) (s : State), ∃ t, exec i s = .next t

/-! ## Whole-machine rules -/

/-- spec/10_state.md R22: VF is written by the flag-writing instructions and by nothing else, except an
instruction that names it as its destination. -/
def Obligations.OnlyTheNamedInstructionsWriteVF : Prop :=
  ∀ (i : Instr) (s t : State), exec i s = .next t → t.readV 15 ≠ s.readV 15 →
    (∃ x y, i ∈ [.op8XY1 x y, .op8XY2 x y, .op8XY3 x y, .op8XY4 x y, .op8XY5 x y, .op8XY6 x y,
      .op8XY7 x y, .op8XYE x y]) ∨
    (∃ x y n, i = .opDXYN x y n) ∨
    (∃ nn, i = .op6XNN 15 nn ∨ i = .op7XNN 15 nn ∨ i = .opCXNN 15 nn) ∨
    (∃ y, i = .op8XY0 15 y) ∨ i = .opFX07 15 ∨ i = .opFX65 15

/-- spec/10_state.md R22, R23, R25, R28, R31, R32, R33, spec/20_memory.md R65 and spec/60_exceptions.md R330:
each general register, I, PC, the call stack, the timers, the framebuffer, memory, the error register, the
key wait and `rand_in` is written only by the instructions its rule names; a general register only as their
destination. (`FX0A` writes its register when a poll completes it, `PollCompletesOnLowestPressedKey`; the rest
of the state no instruction writes, `NoInstructionReachesTheControlPlane`.) -/
def Obligations.OnlyTheNamedInstructionsWriteEachElement : Prop :=
  ∀ (i : Instr) (s t : State), exec i s = .next t →
    (∀ r, t.readV r ≠ s.readV r →
      (∃ y nn, i ∈ [.op6XNN r nn, .op7XNN r nn, .op8XY0 r y, .op8XY1 r y, .op8XY2 r y, .op8XY3 r y,
        .op8XY4 r y, .op8XY5 r y, .op8XY6 r y, .op8XY7 r y, .op8XYE r y, .opCXNN r nn, .opFX07 r]) ∨
      (∃ x, r ≤ x ∧ i = .opFX65 x) ∨
      (r = 15 ∧ ∃ x y n, i ∈ [.op8XY1 x y, .op8XY2 x y, .op8XY3 x y, .op8XY4 x y, .op8XY5 x y,
        .op8XY6 x y, .op8XY7 x y, .op8XYE x y, .opDXYN x y n])) ∧
    (t.i ≠ s.i → ∃ nnn x, i ∈ [.opANNN nnn, .opFX1E x, .opFX29 x]) ∧
    (t.pc ≠ s.pc → ∃ nnn x y nn, i ∈ [.op00EE, .op1NNN nnn, .op2NNN nnn, .opBNNN nnn, .op3XNN x nn,
      .op4XNN x nn, .op5XY0 x y, .op9XY0 x y, .opEX9E x, .opEXA1 x]) ∧
    (t.callStack ≠ s.callStack → ∃ nnn, i ∈ [.op2NNN nnn, .op00EE]) ∧
    (t.dt ≠ s.dt → ∃ x, i = .opFX15 x) ∧ (t.st ≠ s.st → ∃ x, i = .opFX18 x) ∧
    (t.fb ≠ s.fb → ∃ x y n, i ∈ [.op00E0, .opDXYN x y n]) ∧
    (t.mem ≠ s.mem → ∃ x, i ∈ [.opFX33 x, .opFX55 x]) ∧
    (t.error ≠ s.error → ∃ nnn x y n, i ∈ [.op00EE, .op2NNN nnn, .opFX1E x, .opFX33 x, .opFX55 x,
      .opFX65 x, .opDXYN x y n, .opEX9E x, .opEXA1 x]) ∧
    (t.wait ≠ s.wait → ∃ x, i = .opFX0A x) ∧
    (t.randIn ≠ s.randIn → ∃ x nn, i = .opCXNN x nn)

/-- R324, spec/10_state.md section 10: no instruction reaches the control plane: the command-written fields,
the scheduler's registers, the snapshot, the FIFO, the parameters and the other host ports are unchanged
by every instruction. -/
def Obligations.NoInstructionReachesTheControlPlane : Prop :=
  ∀ (i : Instr) (s t : State), exec i s = .next t →
    t = { s with mem := t.mem, v := t.v, i := t.i, pc := t.pc, callStack := t.callStack, dt := t.dt,
                 st := t.st, fb := t.fb, error := t.error, wait := t.wait, randIn := t.randIn }

/-- spec/00_scope.md R11, spec/10_state.md R33: the construction parameters are fixed: no step changes
them. -/
def Obligations.StepKeepsTheParameters : Prop :=
  ∀ s t : State, step s = .next t → t.config = s.config

/-! ## The invariant -/

/-- Every freshly constructed engine, the reset state among them, satisfies the invariant. -/
def Obligations.ConstructionSatisfiesTheInvariant : Prop :=
  Inv State.reset ∧ ∀ c : Config, Inv (State.construct c)

/-- Every step keeps the invariant: memory canonical, in range and its font intact; the grid's shape; PC and
return addresses in the range that never wraps (spec/10_state.md R30); the stack bound; the scheduler's
preconditions; errors visible in the snapshot (spec/46_control_plane.md R294); the ROM metadata. -/
def Obligations.StepKeepsTheInvariant : Prop :=
  ∀ s t : State, Inv s → step s = .next t → Inv t

/-- Whatever the outside world does, every state the block comes to satisfies the invariant, and its step is
never refused: it goes on, or the loop has terminated by `Exit` (R125, R288). -/
def Obligations.ReachableStatesAreSafe : Prop :=
  ∀ s : State, Reachable s → Inv s ∧
    ((∃ t, step s = .next t) ∨
      (step s = .fault .loopTerminated ∧ s.phase = .terminated ∧ s.exitRequested = true))
end

