-- ==== Sys2Proof/Laws/Decode.lean ====
section
/-! SUPPORT. The fields of an encoded word are the fields it was made of, a word is made of its fields, and
the two bytes of a word give it back. Later proofs cite these and unfold no bit extraction. -/

namespace Sys2Proof

/-! ## Bits of a concatenation, at the widths the formats use -/

theorem ofFin_toFin_nibble (b : BitVec 4) : (BitVec.ofFin (b.toFin : Fin 16) : BitVec 4) = b := rfl

theorem getLsbD_append_4_12 (a : BitVec 4) (b : BitVec 12) (i : Nat) :
    (a ++ b : BitVec 16).getLsbD i = if i < 12 then b.getLsbD i else a.getLsbD (i - 12) := by
  exact (BitVec.getLsbD_append (x := a) (y := b)).trans (by simp)

theorem getLsbD_append_4_8 (a : BitVec 4) (b : BitVec 8) (i : Nat) :
    (a ++ b : BitVec 12).getLsbD i = if i < 8 then b.getLsbD i else a.getLsbD (i - 8) := by
  exact (BitVec.getLsbD_append (x := a) (y := b)).trans (by simp)

theorem getLsbD_append_4_4 (a b : BitVec 4) (i : Nat) :
    (a ++ b : BitVec 8).getLsbD i = if i < 4 then b.getLsbD i else a.getLsbD (i - 4) := by
  exact (BitVec.getLsbD_append (x := a) (y := b)).trans (by simp)

theorem getLsbD_append_8_8 (a b : BitVec 8) (i : Nat) :
    (a ++ b : BitVec 16).getLsbD i = if i < 8 then b.getLsbD i else a.getLsbD (i - 8) := by
  exact (BitVec.getLsbD_append (x := a) (y := b)).trans (by simp)

/-! ## Fields of an encoded word -/

section
variable (f : BitVec 4) (nnn : BitVec 12) (x y n : Reg) (nn : Byte)

@[simp] theorem fieldFamily_encodeNNN : fieldFamily (encodeNNN f nnn) = f.toFin := by
  have h : (encodeNNN f nnn).extractLsb' 12 4 = f := by
    refine BitVec.eq_of_getLsbD_eq fun i hi => ?_
    simp [encodeNNN, getLsbD_append_4_12, hi]
  rw [fieldFamily, h]

@[simp] theorem fieldNNN_encodeNNN : fieldNNN (encodeNNN f nnn) = nnn := by
  refine BitVec.eq_of_getLsbD_eq fun i hi => ?_
  simp [fieldNNN, encodeNNN, getLsbD_append_4_12, hi]

@[simp] theorem fieldFamily_encodeXNN : fieldFamily (encodeXNN f x nn) = f.toFin :=
  fieldFamily_encodeNNN f _

@[simp] theorem fieldX_encodeXNN : fieldX (encodeXNN f x nn) = x := by
  have h : (encodeXNN f x nn).extractLsb' 8 4 = (BitVec.ofFin x : BitVec 4) := by
    refine BitVec.eq_of_getLsbD_eq fun i hi => ?_
    rw [BitVec.getLsbD_extractLsb', encodeXNN, getLsbD_append_4_12, getLsbD_append_4_8,
      if_pos (by omega), if_neg (by omega), show 8 + i - 8 = i by omega]
    simp [hi]
  rw [fieldX, h]

@[simp] theorem fieldNN_encodeXNN : fieldNN (encodeXNN f x nn) = nn := by
  refine BitVec.eq_of_getLsbD_eq fun i hi => ?_
  rw [fieldNN, BitVec.getLsbD_extractLsb', encodeXNN, getLsbD_append_4_12, getLsbD_append_4_8,
    if_pos (by omega), if_pos (by omega)]
  simp [hi]

@[simp] theorem fieldFamily_encodeXYN : fieldFamily (encodeXYN f x y n) = f.toFin :=
  fieldFamily_encodeNNN f _

@[simp] theorem fieldX_encodeXYN : fieldX (encodeXYN f x y n) = x :=
  fieldX_encodeXNN f x _

@[simp] theorem fieldY_encodeXYN : fieldY (encodeXYN f x y n) = y := by
  have h : (encodeXYN f x y n).extractLsb' 4 4 = (BitVec.ofFin y : BitVec 4) := by
    refine BitVec.eq_of_getLsbD_eq fun i hi => ?_
    rw [BitVec.getLsbD_extractLsb', encodeXYN, getLsbD_append_4_12, getLsbD_append_4_8,
      getLsbD_append_4_4, if_pos (by omega), if_pos (by omega), if_neg (by omega),
      show 4 + i - 4 = i by omega]
    simp [hi]
  rw [fieldY, h]

@[simp] theorem fieldN_encodeXYN : fieldN (encodeXYN f x y n) = n := by
  have h : (encodeXYN f x y n).extractLsb' 0 4 = (BitVec.ofFin n : BitVec 4) := by
    refine BitVec.eq_of_getLsbD_eq fun i hi => ?_
    rw [BitVec.getLsbD_extractLsb', encodeXYN, getLsbD_append_4_12, getLsbD_append_4_8,
      getLsbD_append_4_4, if_pos (by omega), if_pos (by omega), if_pos (by omega)]
    simp [hi]
  rw [fieldN, h]

end

/-! ## A word is made of its fields -/

section
variable (w : Word)

theorem encodeNNN_fields : encodeNNN (BitVec.ofFin (fieldFamily w)) (fieldNNN w) = w := by
  refine BitVec.eq_of_getLsbD_eq fun i hi => ?_
  rw [encodeNNN, fieldFamily, fieldNNN, ofFin_toFin_nibble, getLsbD_append_4_12]
  simp only [BitVec.getLsbD_extractLsb']
  split
  · simp_all
  · rw [show 12 + (i - 12) = i by omega]; simp; omega

theorem nnn_eq_x_nn : fieldNNN w = (BitVec.ofFin (fieldX w) : BitVec 4) ++ fieldNN w := by
  refine BitVec.eq_of_getLsbD_eq fun i hi => ?_
  rw [fieldNNN, fieldX, fieldNN, ofFin_toFin_nibble, getLsbD_append_4_8]
  simp only [BitVec.getLsbD_extractLsb']
  split
  · simp_all
  · rw [show 8 + (i - 8) = 0 + i by omega, show decide (i - 8 < 4) = true by simp; omega]
    simp [hi]

theorem nn_eq_y_n :
    fieldNN w = (BitVec.ofFin (fieldY w) : BitVec 4) ++ (BitVec.ofFin (fieldN w) : BitVec 4) := by
  refine BitVec.eq_of_getLsbD_eq fun i hi => ?_
  rw [fieldNN, fieldY, fieldN, ofFin_toFin_nibble, ofFin_toFin_nibble, getLsbD_append_4_4]
  simp only [BitVec.getLsbD_extractLsb']
  split
  · simp_all
  · rw [show 4 + (i - 4) = 0 + i by omega, show decide (i - 4 < 4) = true by simp; omega]
    simp [hi]

theorem encodeXNN_fields :
    encodeXNN (BitVec.ofFin (fieldFamily w)) (fieldX w) (fieldNN w) = w := by
  unfold encodeXNN
  rw [← nnn_eq_x_nn]
  exact encodeNNN_fields w

theorem encodeXYN_fields :
    encodeXYN (BitVec.ofFin (fieldFamily w)) (fieldX w) (fieldY w) (fieldN w) = w := by
  unfold encodeXYN
  rw [← nn_eq_y_n]
  exact encodeXNN_fields w

/-- The two bytes of a word, as memory holds them, give the word back (R69). -/
@[simp] theorem wordOfBytes_bytes : wordOfBytes (highByte w) (lowByte w) = w := by
  refine BitVec.eq_of_getLsbD_eq fun i hi => ?_
  rw [wordOfBytes, highByte, lowByte, getLsbD_append_8_8]
  simp only [BitVec.getLsbD_extractLsb']
  split
  · simp_all
  · rw [show 8 + (i - 8) = i by omega]; simp; omega

end

/-- Two words are equal when their family, X, Y and N fields are. -/
theorem word_ext {w w' : Word} (hf : fieldFamily w = fieldFamily w') (hx : fieldX w = fieldX w')
    (hy : fieldY w = fieldY w') (hn : fieldN w = fieldN w') : w = w' := by
  rw [← encodeXYN_fields w, ← encodeXYN_fields w', hf, hx, hy, hn]

/-! ## Masks (R98): what a masked comparison says about the fields -/

section
variable (w p : Word)

/-- A bit of a masked word. -/
theorem and_eq_iff_getLsbD (m : Word) :
    w &&& m = p ↔ ∀ i, i < 16 → (w.getLsbD i && m.getLsbD i) = p.getLsbD i := by
  constructor
  · intro h i _; rw [← h, BitVec.getLsbD_and]
  · intro h; exact BitVec.eq_of_getLsbD_eq fun i hi => by rw [BitVec.getLsbD_and]; exact h i hi

/-- A field is equal to another's exactly when the bits are. -/
theorem extract_eq_iff (a n : Nat) :
    w.extractLsb' a n = p.extractLsb' a n ↔ ∀ i, i < n → w.getLsbD (a + i) = p.getLsbD (a + i) := by
  constructor
  · intro h i hi
    have := congrArg (fun z => z.getLsbD i) h
    simpa [BitVec.getLsbD_extractLsb', hi] using this
  · intro h
    refine BitVec.eq_of_getLsbD_eq fun i hi => ?_
    simp only [BitVec.getLsbD_extractLsb', hi, decide_true, Bool.true_and]
    exact h i hi

theorem fieldFamily_eq_iff :
    fieldFamily w = fieldFamily p ↔ ∀ i, i < 4 → w.getLsbD (12 + i) = p.getLsbD (12 + i) := by
  rw [← extract_eq_iff]; exact ⟨BitVec.eq_of_toFin_eq, congrArg BitVec.toFin⟩

theorem fieldN_eq_iff :
    fieldN w = fieldN p ↔ ∀ i, i < 4 → w.getLsbD (0 + i) = p.getLsbD (0 + i) := by
  rw [← extract_eq_iff]; exact ⟨BitVec.eq_of_toFin_eq, congrArg BitVec.toFin⟩

theorem fieldNN_eq_iff :
    fieldNN w = fieldNN p ↔ ∀ i, i < 8 → w.getLsbD (0 + i) = p.getLsbD (0 + i) := by
  rw [← extract_eq_iff]; rfl

variable {p}

/-- Mask 0xF000 compares the family. -/
theorem mask_family (hp : p &&& 0x0FFF#16 = 0#16) :
    w &&& 0xF000#16 = p ↔ fieldFamily w = fieldFamily p := by
  rw [and_eq_iff_getLsbD, fieldFamily_eq_iff]
  rw [and_eq_iff_getLsbD] at hp
  constructor
  · intro h i hi
    have := h (12 + i) (by omega)
    interval_cases i <;> simpa using this
  · intro h i hi
    have h0 := hp i hi
    by_cases hi' : 12 ≤ i
    · have := h (i - 12) (by omega)
      interval_cases i <;> simpa using this
    · interval_cases i <;> simpa using h0.symm

/-- Mask 0xF00F compares the family and N. -/
theorem mask_family_n (hp : p &&& 0x0FF0#16 = 0#16) :
    w &&& 0xF00F#16 = p ↔ fieldFamily w = fieldFamily p ∧ fieldN w = fieldN p := by
  rw [and_eq_iff_getLsbD, fieldFamily_eq_iff, fieldN_eq_iff]
  rw [and_eq_iff_getLsbD] at hp
  constructor
  · refine fun h => ⟨fun i hi => ?_, fun i hi => ?_⟩
    · have := h (12 + i) (by omega)
      interval_cases i <;> simpa using this
    · have := h (0 + i) (by omega)
      interval_cases i <;> simpa using this
  · rintro ⟨hf, hn⟩ i hi
    have h0 := hp i hi
    by_cases hi' : 12 ≤ i
    · have := hf (i - 12) (by omega)
      interval_cases i <;> simpa using this
    by_cases hi'' : i < 4
    · have := hn i hi''
      interval_cases i <;> simpa using this
    · interval_cases i <;> simpa using h0.symm

/-- Mask 0xF0FF compares the family and NN. -/
theorem mask_family_nn (hp : p &&& 0x0F00#16 = 0#16) :
    w &&& 0xF0FF#16 = p ↔ fieldFamily w = fieldFamily p ∧ fieldNN w = fieldNN p := by
  rw [and_eq_iff_getLsbD, fieldFamily_eq_iff, fieldNN_eq_iff]
  rw [and_eq_iff_getLsbD] at hp
  constructor
  · refine fun h => ⟨fun i hi => ?_, fun i hi => ?_⟩
    · have := h (12 + i) (by omega)
      interval_cases i <;> simpa using this
    · have := h (0 + i) (by omega)
      interval_cases i <;> simpa using this
  · rintro ⟨hf, hn⟩ i hi
    have h0 := hp i hi
    by_cases hi' : 12 ≤ i
    · have := hf (i - 12) (by omega)
      interval_cases i <;> simpa using this
    by_cases hi'' : i < 8
    · have := hn i hi''
      interval_cases i <;> simpa using this
    · interval_cases i <;> simpa using h0.symm

end

/-! ## The decoder's levels -/

section
variable {w : Word}

theorem decode_family0 (h : fieldFamily w = 0x0) : decode w = decodeFamily0 w := by
  simp [decode, h]

theorem decode_family1 (h : fieldFamily w = 0x1) : decode w = .ok (.op1NNN (fieldNNN w)) := by
  simp [decode, h]

theorem decode_family2 (h : fieldFamily w = 0x2) : decode w = .ok (.op2NNN (fieldNNN w)) := by
  simp [decode, h]

theorem decode_family3 (h : fieldFamily w = 0x3) : decode w = .ok (.op3XNN (fieldX w) (fieldNN w)) := by
  simp [decode, h]

theorem decode_family4 (h : fieldFamily w = 0x4) : decode w = .ok (.op4XNN (fieldX w) (fieldNN w)) := by
  simp [decode, h]

theorem decode_family5 (h : fieldFamily w = 0x5) : decode w = decodeFamilyXY0 w (.op5XY0 (fieldX w) (fieldY w)) := by
  simp [decode, h]

theorem decode_family6 (h : fieldFamily w = 0x6) : decode w = .ok (.op6XNN (fieldX w) (fieldNN w)) := by
  simp [decode, h]

theorem decode_family7 (h : fieldFamily w = 0x7) : decode w = .ok (.op7XNN (fieldX w) (fieldNN w)) := by
  simp [decode, h]

theorem decode_family8 (h : fieldFamily w = 0x8) : decode w = decodeFamily8 w := by
  simp [decode, h]

theorem decode_family9 (h : fieldFamily w = 0x9) : decode w = decodeFamilyXY0 w (.op9XY0 (fieldX w) (fieldY w)) := by
  simp [decode, h]

theorem decode_familyA (h : fieldFamily w = 0xA) : decode w = .ok (.opANNN (fieldNNN w)) := by
  simp [decode, h]

theorem decode_familyB (h : fieldFamily w = 0xB) : decode w = .ok (.opBNNN (fieldNNN w)) := by
  simp [decode, h]

theorem decode_familyC (h : fieldFamily w = 0xC) : decode w = .ok (.opCXNN (fieldX w) (fieldNN w)) := by
  simp [decode, h]

theorem decode_familyD (h : fieldFamily w = 0xD) : decode w = .ok (.opDXYN (fieldX w) (fieldY w) (fieldN w)) := by
  simp [decode, h]

theorem decode_familyE (h : fieldFamily w = 0xE) : decode w = decodeFamilyE w := by
  simp [decode, h]

theorem decode_familyF (h : fieldFamily w = 0xF) : decode w = decodeFamilyF w := by
  simp [decode, h]

end

/-- `decode` never answers `truncated`, and an `invalidOpcode` names the word. -/
theorem decode_error (w : Word) (e : DecodeError) (h : decode w = .error e) : e = .invalidOpcode w := by
  unfold decode decodeFamily0 decodeFamilyXY0 decodeFamily8 decodeFamilyE decodeFamilyF at h
  repeat' split at h
  all_goals (cases h; try rfl)

/-- Decoding from bytes is decoding the word they make. -/
theorem decodeBytes_cons (hi lo : Byte) (rest : List Byte) :
    decodeBytes (hi :: lo :: rest) = (decode (wordOfBytes hi lo)).map (·, rest) := by
  rw [decodeBytes]
  cases decode (wordOfBytes hi lo) <;> rfl

end Sys2Proof
end

