-- ==== Sys2Proof/Laws/Framebuffer.lean ====
section
/-! SUPPORT. The framebuffer: toggles commute and undo themselves, keep the grid's shape, and a draw is a
run of toggles at the sprite's points. -/

namespace Sys2Proof.Machine

/-! ## One pixel -/

section
variable (fb : Framebuffer) (x y : Nat)

theorem Framebuffer.toggle_toggle : (fb.toggle x y).toggle x y = fb := by
  apply List.ext_getElem?
  intro j
  simp only [Framebuffer.toggle, List.getElem?_modify]
  split
  · next h =>
    subst h
    cases fb[y]? with
    | none => rfl
    | some row =>
      simp only [Option.map_eq_map, Option.map_some, Option.some.injEq]
      apply List.ext_getElem?
      intro k
      simp only [List.getElem?_modify]
      split <;> simp [Function.comp_def]
  · simp

theorem Framebuffer.toggle_comm (x' y' : Nat) :
    (fb.toggle x y).toggle x' y' = (fb.toggle x' y').toggle x y := by
  apply List.ext_getElem?
  intro j
  simp only [Framebuffer.toggle, List.getElem?_modify]
  cases fb[j]? with
  | none => rfl
  | some row =>
    simp only [Option.map_eq_map, Option.map_some, Option.some.injEq]
    apply List.ext_getElem?
    intro k
    by_cases h : y = j <;> by_cases h' : y' = j <;> simp only [h, h', if_true, if_false]
    simp only [List.getElem?_modify]
    cases row[k]? with
    | none => rfl
    | some b => by_cases hk : x = k <;> by_cases hk' : x' = k <;> simp [hk, hk']

variable {fb x y}

theorem Framebuffer.wf_toggle {w h : Nat} (hf : Framebuffer.wf w h fb) :
    Framebuffer.wf w h (fb.toggle x y) := by
  refine ⟨by simpa [Framebuffer.toggle] using hf.1, fun row hrow => ?_⟩
  obtain ⟨j, hj, rfl⟩ := List.getElem_of_mem hrow
  simp only [Framebuffer.toggle, List.getElem_modify]
  simp only [Framebuffer.toggle, List.length_modify] at hj
  split
  · simpa using hf.2 _ (List.getElem_mem hj)
  · exact hf.2 _ (List.getElem_mem hj)

/-- Inside the grid a toggle turns its pixel and leaves every other. -/
theorem Framebuffer.pixel_toggle {w h : Nat} (hf : Framebuffer.wf w h fb) (hx : x < w) (hy : y < h)
    (px py : Nat) :
    (fb.toggle x y).pixel px py
      = if px = x ∧ py = y then !fb.pixel px py else fb.pixel px py := by
  have hy' : y < fb.length := hf.1 ▸ hy
  have hx' : x < fb[y].length := (hf.2 _ (List.getElem_mem hy')).symm ▸ hx
  by_cases h1 : py = y
  · subst h1
    simp only [Framebuffer.pixel, Framebuffer.toggle, List.getElem?_modify, if_true,
      List.getElem?_eq_getElem hy', Option.map_eq_map, Option.map_some, Option.getD_some, and_true]
    by_cases h2 : px = x
    · subst h2; simp [List.getElem?_eq_getElem hx']
    · simp [h2, Ne.symm h2]
  · simp [Framebuffer.pixel, Framebuffer.toggle, Ne.symm h1, h1]

theorem Framebuffer.wf_blank (w h : Nat) : Framebuffer.wf w h (Framebuffer.blank w h) := by
  refine ⟨by simp [Framebuffer.blank], fun row hrow => ?_⟩
  rw [List.eq_of_mem_replicate hrow, List.length_replicate]

theorem Framebuffer.pixel_blank (w h px py : Nat) : (Framebuffer.blank w h).pixel px py = false := by
  simp only [Framebuffer.pixel, Framebuffer.blank, List.getElem?_replicate]
  split
  · simp only [Option.getD_some, List.getElem?_replicate]; split <;> rfl
  · rfl

end

/-! ## A draw is a run of toggles at the sprite's points -/

/-- The grid points of the 1 bits of columns c, c + 1, … of one row, n of them. -/
def columnPoints (w : Nat) (row : Byte) (x0 py : Nat) : Nat → Nat → List (Nat × Nat)
  | _, 0 => []
  | c, n + 1 =>
    (if row.getLsbD (7 - c) then [((x0 + c) % w, py)] else []) ++ columnPoints w row x0 py (c + 1) n

/-- The grid points of the 1 bits of a sprite, in drawing order. -/
def spritePoints (w h x0 y0 : Nat) : Nat → List Byte → List (Nat × Nat)
  | _, [] => []
  | r, row :: rest => columnPoints w row x0 ((y0 + r) % h) 0 8 ++ spritePoints w h x0 y0 (r + 1) rest

/-- Plot 1 bits at points, in order. -/
def Canvas.plotPoints (g : Canvas) (ps : List (Nat × Nat)) : Canvas :=
  ps.foldl (fun g p => g.plot true p.1 p.2) g

theorem Canvas.plotPoints_append (g : Canvas) (ps qs : List (Nat × Nat)) :
    g.plotPoints (ps ++ qs) = (g.plotPoints ps).plotPoints qs := List.foldl_append

theorem Canvas.plotColumns_eq (w : Nat) (row : Byte) (x0 py c n : Nat) (g : Canvas) :
    Canvas.plotColumns w row x0 py c n g = g.plotPoints (columnPoints w row x0 py c n) := by
  induction n generalizing c g with
  | zero => rfl
  | succ n ih =>
    rw [Canvas.plotColumns, ih, columnPoints, Canvas.plotPoints_append]
    congr 1
    cases row.getLsbD (7 - c) <;> rfl

theorem Canvas.plotRows_eq (w h x0 y0 r : Nat) (rows : List Byte) (g : Canvas) :
    Canvas.plotRows w h x0 y0 r rows g = g.plotPoints (spritePoints w h x0 y0 r rows) := by
  induction rows generalizing r g with
  | nil => rfl
  | cons row rest ih =>
    rw [Canvas.plotRows, ih, Canvas.plotColumns_eq, spritePoints, Canvas.plotPoints_append]

theorem mem_columnPoints (w : Nat) (row : Byte) (x0 py c n : Nat) (p : Nat × Nat) :
    p ∈ columnPoints w row x0 py c n ↔
      ∃ k, c ≤ k ∧ k < c + n ∧ row.getLsbD (7 - k) = true ∧ p = ((x0 + k) % w, py) := by
  induction n generalizing c with
  | zero => simp [columnPoints]; omega
  | succ n ih =>
    rw [columnPoints, List.mem_append, ih]
    constructor
    · rintro (h | ⟨k, h1, h2, h3, h4⟩)
      · split at h
        · next hb => exact ⟨c, le_refl _, by omega, hb, by simpa using h⟩
        · simp at h
      · exact ⟨k, by omega, by omega, h3, h4⟩
    · rintro ⟨k, h1, h2, h3, h4⟩
      rcases Nat.eq_or_lt_of_le h1 with rfl | h
      · left; simp [h3, h4]
      · exact .inr ⟨k, h, by omega, h3, h4⟩

/-- A point is drawn exactly when some 1 bit of the sprite lands there. -/
theorem mem_spritePoints (w h x0 y0 r : Nat) (rows : List Byte) (p : Nat × Nat) :
    p ∈ spritePoints w h x0 y0 r rows ↔
      ∃ (j : Nat) (hj : j < rows.length) (c : Nat), c < 8 ∧ rows[j].getLsbD (7 - c) = true ∧
        p = ((x0 + c) % w, (y0 + (r + j)) % h) := by
  induction rows generalizing r with
  | nil => simp [spritePoints]
  | cons row rest ih =>
    rw [spritePoints, List.mem_append, ih, mem_columnPoints]
    constructor
    · rintro (⟨k, -, h2, h3, h4⟩ | ⟨j, hj, c, hc, hb, hp⟩)
      · exact ⟨0, by simp, k, by omega, h3, h4⟩
      · refine ⟨j + 1, by simp; omega, c, hc, hb, ?_⟩
        rw [hp, show r + (j + 1) = r + 1 + j by omega]
    · rintro ⟨j, hj, c, hc, hb, hp⟩
      rcases j with - | j
      · exact .inl ⟨c, by omega, by omega, hb, hp⟩
      · right
        refine ⟨j, by simpa using hj, c, hc, hb, ?_⟩
        rw [hp, show r + (j + 1) = r + 1 + j by omega]

/-! ## What a run of plots does -/

theorem Canvas.plotPoints_cons (g : Canvas) (p : Nat × Nat) (ps : List (Nat × Nat)) :
    g.plotPoints (p :: ps) = (g.plot true p.1 p.2).plotPoints ps := rfl

theorem Canvas.fb_plot_true (g : Canvas) (x y : Nat) : (g.plot true x y).fb = g.fb.toggle x y := rfl

/-- The framebuffer part of a run of plots does not look at the collision flag. -/
theorem Canvas.fb_plotPoints (g : Canvas) (ps : List (Nat × Nat)) :
    (g.plotPoints ps).fb = ps.foldl (fun fb p => fb.toggle p.1 p.2) g.fb := by
  induction ps generalizing g with
  | nil => rfl
  | cons p ps ih => rw [Canvas.plotPoints_cons, ih]; rfl

theorem Framebuffer.foldl_toggle_comm (fb : Framebuffer) (x y : Nat) (ps : List (Nat × Nat)) :
    ps.foldl (fun fb p => fb.toggle p.1 p.2) (fb.toggle x y)
      = (ps.foldl (fun fb p => fb.toggle p.1 p.2) fb).toggle x y := by
  induction ps generalizing fb with
  | nil => rfl
  | cons p ps ih => rw [List.foldl_cons, Framebuffer.toggle_comm, ih]; rfl

/-- A run of toggles undoes itself (R222). -/
theorem Framebuffer.foldl_toggle_twice (fb : Framebuffer) (ps : List (Nat × Nat)) :
    ps.foldl (fun fb p => fb.toggle p.1 p.2) (ps.foldl (fun fb p => fb.toggle p.1 p.2) fb) = fb := by
  induction ps generalizing fb with
  | nil => rfl
  | cons p ps ih =>
    rw [List.foldl_cons, List.foldl_cons, Framebuffer.foldl_toggle_comm, Framebuffer.foldl_toggle_comm,
      Framebuffer.foldl_toggle_comm, Framebuffer.toggle_toggle, ih]

theorem Framebuffer.wf_foldl_toggle {w h : Nat} {fb : Framebuffer} (hf : Framebuffer.wf w h fb)
    (ps : List (Nat × Nat)) :
    Framebuffer.wf w h (ps.foldl (fun fb p => fb.toggle p.1 p.2) fb) := by
  induction ps generalizing fb with
  | nil => exact hf
  | cons p ps ih => exact ih (Framebuffer.wf_toggle hf)

/-! ## A run of plots at points of the grid, in order (R221) -/

/-- Each pixel is turned once for each time it is drawn. -/
theorem Framebuffer.pixel_foldl_toggle_count {w h : Nat} {fb : Framebuffer} (hf : Framebuffer.wf w h fb)
    {ps : List (Nat × Nat)} (hg : ∀ p ∈ ps, p.1 < w ∧ p.2 < h) (px py : Nat) :
    (ps.foldl (fun fb p => fb.toggle p.1 p.2) fb).pixel px py
      = (fb.pixel px py ^^ (ps.count (px, py) % 2 == 1)) := by
  induction ps generalizing fb with
  | nil => simp
  | cons p ps ih =>
    obtain ⟨h1, h2⟩ := hg p List.mem_cons_self
    rw [List.foldl_cons, ih (Framebuffer.wf_toggle hf) fun q hq => hg q (List.mem_cons_of_mem _ hq),
      Framebuffer.pixel_toggle hf h1 h2, List.count_cons]
    by_cases hx : p = (px, py)
    · subst hx
      have : ((ps.count (px, py) + 1) % 2 == 1) = !(ps.count (px, py) % 2 == 1) := by
        rcases Nat.mod_two_eq_zero_or_one (ps.count (px, py)) with h | h <;> simp [h, Nat.add_mod]
      simp [this]
    · have : ¬ (px = p.1 ∧ py = p.2) := fun h => hx (Prod.ext h.1.symm h.2.symm)
      simp [hx, this]

/-- The collision flag of a run of plots: whether some toggle found its pixel on, after the toggles before
it. -/
theorem Canvas.collision_plotPoints_iff {w h : Nat} {g : Canvas} (hf : Framebuffer.wf w h g.fb)
    {ps : List (Nat × Nat)} (hg : ∀ p ∈ ps, p.1 < w ∧ p.2 < h) :
    (g.plotPoints ps).collision = true ↔ g.collision = true ∨ ∃ (k : Nat) (hk : k < ps.length),
      ((ps.take k).foldl (fun fb p => fb.toggle p.1 p.2) g.fb).pixel ps[k].1 ps[k].2 = true := by
  induction ps generalizing g with
  | nil => simp [Canvas.plotPoints]
  | cons p ps ih =>
    rw [Canvas.plotPoints_cons,
      ih (Framebuffer.wf_toggle hf) fun q hq => hg q (List.mem_cons_of_mem _ hq)]
    constructor
    · rintro (hc | ⟨k, hk, hp⟩)
      · rcases Bool.or_eq_true_iff.mp hc with hc | hc
        · exact .inl hc
        · exact .inr ⟨0, Nat.zero_lt_succ _, hc⟩
      · exact .inr ⟨k + 1, Nat.succ_lt_succ hk, hp⟩
    · rintro (hc | ⟨k, hk, hp⟩)
      · exact .inl (Bool.or_eq_true_iff.mpr (.inl hc))
      · rcases k with - | k
        · exact .inl (Bool.or_eq_true_iff.mpr (.inr hp))
        · exact .inr ⟨k, Nat.lt_of_succ_lt_succ hk, hp⟩

/-- The points of one row as a list: the columns of its 1 bits, in order. -/
theorem columnPoints_eq (w : Nat) (row : Byte) (x0 py c n : Nat) :
    columnPoints w row x0 py c n
      = ((List.range' c n).filter fun c => row.getLsbD (7 - c)).map fun c => ((x0 + c) % w, py) := by
  induction n generalizing c with
  | zero => rfl
  | succ n ih =>
    rw [columnPoints, ih, List.range'_succ, List.filter_cons]
    cases row.getLsbD (7 - c) <;> rfl

/-- The points of a sprite as a list: row after row. -/
theorem spritePoints_eq (w h x0 y0 r : Nat) (rows : List Byte) :
    spritePoints w h x0 y0 r rows = (List.range rows.length).flatMap fun j =>
      columnPoints w (rows[j]?.getD 0#8) x0 ((y0 + (r + j)) % h) 0 8 := by
  induction rows generalizing r with
  | nil => rfl
  | cons row rest ih =>
    rw [spritePoints, ih, List.length_cons, List.range_succ_eq_map, List.flatMap_cons,
      List.flatMap_map]
    congr 1
    refine List.flatMap_congr fun j _ => ?_
    rw [show r + 1 + j = r + (j + 1) by omega]; rfl

/-! ## A run of plots at distinct points of the grid -/

/-- Each point drawn once turns its pixel once. -/
theorem Framebuffer.pixel_foldl_toggle {w h : Nat} {fb : Framebuffer} (hf : Framebuffer.wf w h fb)
    {ps : List (Nat × Nat)} (hd : ps.Nodup) (hg : ∀ p ∈ ps, p.1 < w ∧ p.2 < h) (px py : Nat) :
    (ps.foldl (fun fb p => fb.toggle p.1 p.2) fb).pixel px py
      = (fb.pixel px py ^^ decide ((px, py) ∈ ps)) := by
  rw [Framebuffer.pixel_foldl_toggle_count hf hg, List.Nodup.count hd]
  split <;> simp_all

/-- The collision flag of a run of plots at distinct points: whether one of their pixels was on. -/
theorem Canvas.collision_plotPoints {w h : Nat} {g : Canvas} (hf : Framebuffer.wf w h g.fb)
    {ps : List (Nat × Nat)} (hd : ps.Nodup) (hg : ∀ p ∈ ps, p.1 < w ∧ p.2 < h) :
    (g.plotPoints ps).collision = (g.collision || ps.any fun p => g.fb.pixel p.1 p.2) := by
  induction ps generalizing g with
  | nil => simp [Canvas.plotPoints]
  | cons p ps ih =>
    obtain ⟨hp, hd⟩ := List.nodup_cons.mp hd
    obtain ⟨h1, h2⟩ := hg p List.mem_cons_self
    rw [Canvas.plotPoints_cons,
      ih (Framebuffer.wf_toggle hf) hd fun q hq => hg q (List.mem_cons_of_mem _ hq), List.any_cons,
      ← Bool.or_assoc]
    congr 1
    rw [Bool.eq_iff_iff, List.any_eq_true, List.any_eq_true]
    refine exists_congr fun q => and_congr_right fun hq => ?_
    have hne : ¬ (q.1 = p.1 ∧ q.2 = p.2) := fun h => hp (Prod.ext h.1 h.2 ▸ hq)
    rw [Canvas.fb_plot_true, Framebuffer.pixel_toggle hf h1 h2, if_neg hne]

/-- Offsets less than m apart land on different residues modulo m. -/
theorem add_mod_ne {a x y m : Nat} (h : x < y) (hm : y - x < m) : (a + x) % m ≠ (a + y) % m := by
  intro he
  have h0 : (a + y - (a + x)) % m = 0 := Nat.sub_mod_eq_zero_of_mod_eq he.symm
  rw [show a + y - (a + x) = y - x by omega, Nat.mod_eq_of_lt hm] at h0
  omega

/-- A column lands on its own residue, so the points of one row are distinct on a grid at least 8
wide. -/
theorem nodup_columnPoints {w : Nat} (row : Byte) (x0 py c n : Nat) (h : c + n ≤ 8) (hw : 8 ≤ w) :
    (columnPoints w row x0 py c n).Nodup := by
  induction n generalizing c with
  | zero => exact List.nodup_nil
  | succ n ih =>
    rw [columnPoints]
    split
    · rw [List.singleton_append, List.nodup_cons]
      refine ⟨fun hmem => ?_, ih (c + 1) (by omega)⟩
      obtain ⟨k, h1, h2, -, h4⟩ := (mem_columnPoints _ _ _ _ _ _ _).mp hmem
      have := congrArg Prod.fst h4
      exact absurd this (add_mod_ne (by omega) (by omega))
    · rw [List.nil_append]; exact ih (c + 1) (by omega)

/-- The points of a sprite are distinct on a grid at least 8 wide and as high as the sprite. -/
theorem nodup_spritePoints {w h : Nat} (x0 y0 r : Nat) (rows : List Byte) (hw : 8 ≤ w)
    (hr : rows.length ≤ h) : (spritePoints w h x0 y0 r rows).Nodup := by
  induction rows generalizing r with
  | nil => exact List.nodup_nil
  | cons row rest ih =>
    rw [spritePoints, List.nodup_append]
    refine ⟨nodup_columnPoints row _ _ 0 8 (le_refl _) hw,
      ih (r + 1) (by simp at hr; omega), fun p hp q hq => ?_⟩
    rintro rfl
    obtain ⟨k, -, -, -, h1⟩ := (mem_columnPoints _ _ _ _ _ _ _).mp hp
    obtain ⟨j, hj, c, -, -, h2⟩ := (mem_spritePoints _ _ _ _ _ _ _).mp hq
    have := congrArg Prod.snd (h1.symm.trans h2)
    simp at hr
    exact add_mod_ne (by omega) (by omega) this

/-- The points of a sprite lie on the grid. -/
theorem spritePoints_lt {w h : Nat} (x0 y0 r : Nat) (rows : List Byte) (hw : 0 < w)
    (hh : rows ≠ [] → 0 < h) : ∀ p ∈ spritePoints w h x0 y0 r rows, p.1 < w ∧ p.2 < h := by
  intro p hp
  obtain ⟨j, hj, c, -, -, rfl⟩ := (mem_spritePoints _ _ _ _ _ _ _).mp hp
  exact ⟨Nat.mod_lt _ hw, Nat.mod_lt _ (hh (List.ne_nil_of_length_pos (by omega)))⟩

end Sys2Proof.Machine
end

