-- ==== Sys2Proof/Laws/Memory.lean ====
section
/-! SUPPORT. Memory: a read after a write, the frame of a write, the canonical form, and what the checks
of a multi-byte access say. -/

namespace Sys2Proof.Machine

/-! ## Reads after the list operations -/

section
variable (font : Vector Byte 80)

theorem Memory.read_insert (m : Memory) (a : Nat) (b : Byte) (x : Nat) :
    Memory.read font (Memory.insert m a b) x = if x = a then b else Memory.read font m x := by
  induction m with
  | nil => simp [Memory.insert, Memory.read]
  | cons c rest ih =>
    obtain ⟨k, d⟩ := c
    simp only [Memory.insert]
    split
    · simp [Memory.read]
    split
    · next h => subst h; simp only [Memory.read]; split <;> simp_all
    · next h => simp only [Memory.read, ih]; split <;> simp_all [eq_comm]

theorem Memory.mem_erase {m : Memory} {a : Nat} {c : Host.Cell} (h : c ∈ Memory.erase m a) : c ∈ m := by
  induction m with
  | nil => simp [Memory.erase] at h
  | cons d rest ih =>
    simp only [Memory.erase] at h
    split at h
    · exact List.mem_cons_of_mem _ h
    · rcases List.mem_cons.mp h with h | h
      · exact h ▸ List.mem_cons_self
      · exact List.mem_cons_of_mem _ (ih h)

theorem Memory.mem_insert {m : Memory} {a : Nat} {b : Byte} {c : Host.Cell}
    (h : c ∈ Memory.insert m a b) : c = (a, b) ∨ c ∈ m := by
  induction m with
  | nil => simpa [Memory.insert] using h
  | cons d rest ih =>
    simp only [Memory.insert] at h
    split at h
    · simpa using h
    split at h
    · rcases List.mem_cons.mp h with h | h
      · exact .inl h
      · exact .inr (List.mem_cons_of_mem _ h)
    · rcases List.mem_cons.mp h with h | h
      · exact .inr (h ▸ List.mem_cons_self)
      · exact (ih h).imp_right (List.mem_cons_of_mem _)

/-- Every listed address is above the ones before it, so an address below the first is not listed. -/
theorem Memory.read_of_lt {m : Memory} {x : Nat} (h : ∀ c ∈ m, x < c.1) :
    Memory.read font m x = Memory.blank font x := by
  induction m with
  | nil => rfl
  | cons c rest ih =>
    have := h c List.mem_cons_self
    simp only [Memory.read]
    rw [if_neg (by omega), ih fun d hd => h d (List.mem_cons_of_mem _ hd)]

theorem Memory.read_erase {m : Memory} (hm : m.Pairwise fun c d => c.1 < d.1) (a x : Nat) :
    Memory.read font (Memory.erase m a) x
      = if x = a then Memory.blank font a else Memory.read font m x := by
  induction m with
  | nil => simp only [Memory.erase, Memory.read]; split <;> simp_all
  | cons c rest ih =>
    obtain ⟨k, d⟩ := c
    rw [List.pairwise_cons] at hm
    simp only [Memory.erase]
    split
    · next h =>
      subst h
      split
      · next h => subst h; exact Memory.read_of_lt font hm.1
      · next h => simp [Memory.read, h]
    · next h =>
      simp only [Memory.read, ih hm.2]
      split <;> simp_all [eq_comm]

/-! ## The canonical form -/

theorem Memory.pairwise_erase {m : Memory} (hm : m.Pairwise fun c d => c.1 < d.1) (a : Nat) :
    (Memory.erase m a).Pairwise fun c d => c.1 < d.1 := by
  induction m with
  | nil => simp [Memory.erase]
  | cons c rest ih =>
    rw [List.pairwise_cons] at hm
    simp only [Memory.erase]
    split
    · exact hm.2
    · exact List.pairwise_cons.mpr ⟨fun d hd => hm.1 d (Memory.mem_erase hd), ih hm.2⟩

theorem Memory.pairwise_insert {m : Memory} (hm : m.Pairwise fun c d => c.1 < d.1) (a : Nat) (b : Byte) :
    (Memory.insert m a b).Pairwise fun c d => c.1 < d.1 := by
  induction m with
  | nil => simp [Memory.insert]
  | cons c rest ih =>
    have hc := List.pairwise_cons.mp hm
    simp only [Memory.insert]
    split
    · next h =>
      refine List.pairwise_cons.mpr ⟨fun d hd => ?_, hm⟩
      rcases List.mem_cons.mp hd with hd | hd
      · exact hd ▸ h
      · exact Nat.lt_trans h (hc.1 d hd)
    split
    · next h => exact List.pairwise_cons.mpr ⟨fun d hd => h ▸ hc.1 d hd, hc.2⟩
    · refine List.pairwise_cons.mpr ⟨fun d hd => ?_, ih hc.2⟩
      rcases Memory.mem_insert hd with hd | hd
      · subst hd; simp only; omega
      · exact hc.1 d hd

/-- What a write leaves listed: the written cell, unless it holds the reset contents, and old cells. -/
theorem Memory.mem_write {m : Memory} {a : Nat} {b : Byte} {c : Host.Cell}
    (h : c ∈ Memory.write font m a b) : (c = (a, b) ∧ b ≠ Memory.blank font a) ∨ c ∈ m := by
  unfold Memory.write at h
  split at h
  · exact .inr (Memory.mem_erase h)
  · next hb => exact (Memory.mem_insert h).imp_left fun hc => ⟨hc, hb⟩

/-- A write keeps the canonical form. -/
theorem Memory.wf_write {m : Memory} (hm : Memory.wf font m) (a : Nat) (b : Byte) :
    Memory.wf font (Memory.write font m a b) := by
  refine ⟨?_, fun c hc => ?_⟩
  · unfold Memory.write
    split
    · exact Memory.pairwise_erase hm.1 a
    · exact Memory.pairwise_insert hm.1 a b
  · rcases Memory.mem_write font hc with ⟨rfl, hb⟩ | hc
    · exact hb
    · exact hm.2 c hc

/-- A read after a write: the byte written at its address, every other byte as before. -/
theorem Memory.read_write {m : Memory} (hm : Memory.wf font m) (a : Nat) (b : Byte) (x : Nat) :
    Memory.read font (Memory.write font m a b) x = if x = a then b else Memory.read font m x := by
  unfold Memory.write
  split
  · next h => rw [Memory.read_erase font hm.1, h]
  · exact Memory.read_insert font m a b x

/-! ## Several bytes -/

theorem Memory.wf_writeAll {m : Memory} (hm : Memory.wf font m) (a : Nat) (bs : List Byte) :
    Memory.wf font (Memory.writeAll font m a bs) := by
  induction bs generalizing m a with
  | nil => exact hm
  | cons b rest ih => exact ih (Memory.wf_write font hm a b) (a + 1)

/-- A read after a write of several bytes: byte k of them at address a + k, every other byte as
before. -/
theorem Memory.read_writeAll {m : Memory} (hm : Memory.wf font m) (a : Nat) (bs : List Byte) (x : Nat) :
    Memory.read font (Memory.writeAll font m a bs) x
      = if h : a ≤ x ∧ x - a < bs.length then bs[x - a]'h.2 else Memory.read font m x := by
  induction bs generalizing m a with
  | nil => simp [Memory.writeAll]
  | cons b rest ih =>
    rw [Memory.writeAll, ih (Memory.wf_write font hm a b), Memory.read_write font hm]
    by_cases hxa : x = a
    · subst hxa; simp
    · by_cases hx : a + 1 ≤ x ∧ x - (a + 1) < rest.length
      · rw [dif_pos hx, dif_pos (by simp; omega)]
        rw [List.getElem_cons, dif_neg (by omega)]
        congr 1
      · rw [dif_neg hx, if_neg hxa, dif_neg (by simp; omega)]

/-- What a write of several bytes lists: old cells and cells of the written range. -/
theorem Memory.mem_writeAll {m : Memory} {a : Nat} {bs : List Byte} {c : Host.Cell}
    (h : c ∈ Memory.writeAll font m a bs) : (a ≤ c.1 ∧ c.1 < a + bs.length) ∨ c ∈ m := by
  induction bs generalizing m a with
  | nil => exact .inr h
  | cons b rest ih =>
    rcases ih h with h | h
    · left; simp; omega
    · rcases Memory.mem_write font h with ⟨rfl, -⟩ | h
      · left; simp
      · exact .inr h

end

/-! ## State-level reads -/

/-- A read after `writeBytes`. -/
theorem State.readByte_writeBytes {s : State} (hm : Memory.wf s.config.font s.mem) (a : Nat)
    (bs : List Byte) (x : Nat) :
    (s.writeBytes a bs).readByte x
      = if h : a ≤ x ∧ x - a < bs.length then bs[x - a]'h.2 else s.readByte x :=
  Memory.read_writeAll s.config.font hm a bs x

/-! ## The checks of a multi-byte access (R64) -/

section
variable (check : Nat → Option FaultKind)

/-- No address fails exactly when every one of them passes. -/
theorem firstFault_eq_none (a n : Nat) :
    firstFault check a n = none ↔ ∀ k, k < n → check (a + k) = none := by
  induction n generalizing a with
  | zero => simp [firstFault]
  | succ n ih =>
    rw [firstFault]
    constructor
    · intro h k hk
      split at h
      · simp at h
      · next h0 =>
        rcases k with - | k
        · exact h0
        · rw [show a + (k + 1) = a + 1 + k by omega]
          exact (ih (a + 1)).mp h k (by omega)
    · intro h
      have h0 := h 0 (by omega)
      rw [Nat.add_zero] at h0
      rw [h0]
      refine (ih (a + 1)).mpr fun k hk => ?_
      rw [show a + 1 + k = a + (k + 1) by omega]
      exact h (k + 1) (by omega)

/-- The failing address is the lowest that fails. -/
theorem firstFault_eq_some (a n x : Nat) (f : FaultKind) :
    firstFault check a n = some (x, f) ↔
      a ≤ x ∧ x < a + n ∧ check x = some f ∧ ∀ y, a ≤ y → y < x → check y = none := by
  induction n generalizing a with
  | zero => simp [firstFault]; omega
  | succ n ih =>
    rw [firstFault]
    split
    · next g h0 =>
      constructor
      · rintro h
        obtain ⟨rfl, rfl⟩ : a = x ∧ g = f := by simpa using h
        exact ⟨le_refl _, by omega, h0, fun y h1 h2 => by omega⟩
      · rintro ⟨h1, h2, h3, h4⟩
        rcases Nat.eq_or_lt_of_le h1 with rfl | h
        · simp_all
        · exact absurd (h4 a (le_refl _) h) (by simp [h0])
    · next h0 =>
      rw [ih]
      constructor
      · rintro ⟨h1, h2, h3, h4⟩
        refine ⟨by omega, by omega, h3, fun y h5 h6 => ?_⟩
        rcases Nat.eq_or_lt_of_le h5 with rfl | h
        · exact h0
        · exact h4 y h h6
      · rintro ⟨h1, h2, h3, h4⟩
        have : a ≠ x := fun h => by subst h; simp_all
        exact ⟨by omega, by omega, h3, fun y h5 h6 => h4 y (by omega) h6⟩

end

/-- n reads from a pass exactly when the last address is in memory. -/
theorem readFault_none (a n : Nat) : firstFault readFault a n = none ↔ n = 0 ∨ a + n ≤ 0x1000 := by
  rw [firstFault_eq_none]
  simp only [readFault, ite_eq_right_iff, reduceCtorEq, imp_false, not_lt]
  constructor
  · intro h
    by_cases hn : n = 0
    · exact .inl hn
    · have := h (n - 1) (by omega); omega
  · rintro (h | h) k hk <;> omega

/-- n > 0 writes from a pass exactly when the last address is in memory and the first is above a
protected font. -/
theorem writeFault_none (c : Config) (a n : Nat) (hn : n ≠ 0) :
    firstFault (writeFault c) a n = none ↔ a + n ≤ 0x1000 ∧ (c.fontWrite = .fault → 0x04F < a) := by
  rw [firstFault_eq_none]
  constructor
  · intro h
    have h1 := h (n - 1) (by omega)
    have h0 := h 0 (by omega)
    have ha : ¬ 0xFFF < a + (n - 1) := fun h => by simp [writeFault, h] at h1
    refine ⟨by omega, fun hf => ?_⟩
    by_contra hlow
    rw [Nat.add_zero, writeFault, if_neg (by omega), if_pos ⟨by omega, hf⟩] at h0
    cases h0
  · rintro ⟨h1, h2⟩ k hk
    simp only [writeFault]
    rw [if_neg (by omega), if_neg]
    rintro ⟨h3, h4⟩
    have := h2 h4
    omega

end Sys2Proof.Machine
end

