-- ==== Sys2Proof/Laws/State.lean ====
section
/-! SUPPORT. One lemma per field per update: what each named update of State leaves in each field. All
hold by rfl and are simp lemmas, so that no later proof unfolds a record update. -/

namespace Sys2Proof.Machine

/-! ## setV -/

section
variable (s : State) (r : Reg) (b : Byte)

@[simp] theorem State.setV_mem : (s.setV r b).mem = s.mem := rfl
@[simp] theorem State.setV_v : (s.setV r b).v = s.v.set r.val b := rfl
@[simp] theorem State.setV_i : (s.setV r b).i = s.i := rfl
@[simp] theorem State.setV_pc : (s.setV r b).pc = s.pc := rfl
@[simp] theorem State.setV_callStack : (s.setV r b).callStack = s.callStack := rfl
@[simp] theorem State.setV_dt : (s.setV r b).dt = s.dt := rfl
@[simp] theorem State.setV_st : (s.setV r b).st = s.st := rfl
@[simp] theorem State.setV_fb : (s.setV r b).fb = s.fb := rfl
@[simp] theorem State.setV_keys : (s.setV r b).keys = s.keys := rfl
@[simp] theorem State.setV_romName : (s.setV r b).romName = s.romName := rfl
@[simp] theorem State.setV_romSize : (s.setV r b).romSize = s.romSize := rfl
@[simp] theorem State.setV_opcodesPerFrame : (s.setV r b).opcodesPerFrame = s.opcodesPerFrame := rfl
@[simp] theorem State.setV_running : (s.setV r b).running = s.running := rfl
@[simp] theorem State.setV_stepOnce : (s.setV r b).stepOnce = s.stepOnce := rfl
@[simp] theorem State.setV_exitRequested : (s.setV r b).exitRequested = s.exitRequested := rfl
@[simp] theorem State.setV_error : (s.setV r b).error = s.error := rfl
@[simp] theorem State.setV_currentFrame : (s.setV r b).currentFrame = s.currentFrame := rfl
@[simp] theorem State.setV_actualFrameTime : (s.setV r b).actualFrameTime = s.actualFrameTime := rfl
@[simp] theorem State.setV_frameTimeWithSleep : (s.setV r b).frameTimeWithSleep = s.frameTimeWithSleep := rfl
@[simp] theorem State.setV_fps : (s.setV r b).fps = s.fps := rfl
@[simp] theorem State.setV_wait : (s.setV r b).wait = s.wait := rfl
@[simp] theorem State.setV_carriedError : (s.setV r b).carriedError = s.carriedError := rfl
@[simp] theorem State.setV_snapshot : (s.setV r b).snapshot = s.snapshot := rfl
@[simp] theorem State.setV_cmdFifo : (s.setV r b).cmdFifo = s.cmdFifo := rfl
@[simp] theorem State.setV_config : (s.setV r b).config = s.config := rfl
@[simp] theorem State.setV_phase : (s.setV r b).phase = s.phase := rfl
@[simp] theorem State.setV_batchLeft : (s.setV r b).batchLeft = s.batchLeft := rfl
@[simp] theorem State.setV_applied : (s.setV r b).applied = s.applied := rfl
@[simp] theorem State.setV_frameStart : (s.setV r b).frameStart = s.frameStart := rfl
@[simp] theorem State.setV_clock : (s.setV r b).clock = s.clock := rfl
@[simp] theorem State.setV_randIn : (s.setV r b).randIn = s.randIn := rfl
@[simp] theorem State.setV_clockIn : (s.setV r b).clockIn = s.clockIn := rfl
@[simp] theorem State.setV_sleepOut : (s.setV r b).sleepOut = s.sleepOut := rfl
@[simp] theorem State.setV_romRead : (s.setV r b).romRead = s.romRead := rfl

end

/-! ## setI -/

section
variable (s : State) (a : Word)

@[simp] theorem State.setI_mem : (s.setI a).mem = s.mem := rfl
@[simp] theorem State.setI_v : (s.setI a).v = s.v := rfl
@[simp] theorem State.setI_i : (s.setI a).i = a := rfl
@[simp] theorem State.setI_pc : (s.setI a).pc = s.pc := rfl
@[simp] theorem State.setI_callStack : (s.setI a).callStack = s.callStack := rfl
@[simp] theorem State.setI_dt : (s.setI a).dt = s.dt := rfl
@[simp] theorem State.setI_st : (s.setI a).st = s.st := rfl
@[simp] theorem State.setI_fb : (s.setI a).fb = s.fb := rfl
@[simp] theorem State.setI_keys : (s.setI a).keys = s.keys := rfl
@[simp] theorem State.setI_romName : (s.setI a).romName = s.romName := rfl
@[simp] theorem State.setI_romSize : (s.setI a).romSize = s.romSize := rfl
@[simp] theorem State.setI_opcodesPerFrame : (s.setI a).opcodesPerFrame = s.opcodesPerFrame := rfl
@[simp] theorem State.setI_running : (s.setI a).running = s.running := rfl
@[simp] theorem State.setI_stepOnce : (s.setI a).stepOnce = s.stepOnce := rfl
@[simp] theorem State.setI_exitRequested : (s.setI a).exitRequested = s.exitRequested := rfl
@[simp] theorem State.setI_error : (s.setI a).error = s.error := rfl
@[simp] theorem State.setI_currentFrame : (s.setI a).currentFrame = s.currentFrame := rfl
@[simp] theorem State.setI_actualFrameTime : (s.setI a).actualFrameTime = s.actualFrameTime := rfl
@[simp] theorem State.setI_frameTimeWithSleep : (s.setI a).frameTimeWithSleep = s.frameTimeWithSleep := rfl
@[simp] theorem State.setI_fps : (s.setI a).fps = s.fps := rfl
@[simp] theorem State.setI_wait : (s.setI a).wait = s.wait := rfl
@[simp] theorem State.setI_carriedError : (s.setI a).carriedError = s.carriedError := rfl
@[simp] theorem State.setI_snapshot : (s.setI a).snapshot = s.snapshot := rfl
@[simp] theorem State.setI_cmdFifo : (s.setI a).cmdFifo = s.cmdFifo := rfl
@[simp] theorem State.setI_config : (s.setI a).config = s.config := rfl
@[simp] theorem State.setI_phase : (s.setI a).phase = s.phase := rfl
@[simp] theorem State.setI_batchLeft : (s.setI a).batchLeft = s.batchLeft := rfl
@[simp] theorem State.setI_applied : (s.setI a).applied = s.applied := rfl
@[simp] theorem State.setI_frameStart : (s.setI a).frameStart = s.frameStart := rfl
@[simp] theorem State.setI_clock : (s.setI a).clock = s.clock := rfl
@[simp] theorem State.setI_randIn : (s.setI a).randIn = s.randIn := rfl
@[simp] theorem State.setI_clockIn : (s.setI a).clockIn = s.clockIn := rfl
@[simp] theorem State.setI_sleepOut : (s.setI a).sleepOut = s.sleepOut := rfl
@[simp] theorem State.setI_romRead : (s.setI a).romRead = s.romRead := rfl

end

/-! ## setPc -/

section
variable (s : State) (a : Word)

@[simp] theorem State.setPc_mem : (s.setPc a).mem = s.mem := rfl
@[simp] theorem State.setPc_v : (s.setPc a).v = s.v := rfl
@[simp] theorem State.setPc_i : (s.setPc a).i = s.i := rfl
@[simp] theorem State.setPc_pc : (s.setPc a).pc = a := rfl
@[simp] theorem State.setPc_callStack : (s.setPc a).callStack = s.callStack := rfl
@[simp] theorem State.setPc_dt : (s.setPc a).dt = s.dt := rfl
@[simp] theorem State.setPc_st : (s.setPc a).st = s.st := rfl
@[simp] theorem State.setPc_fb : (s.setPc a).fb = s.fb := rfl
@[simp] theorem State.setPc_keys : (s.setPc a).keys = s.keys := rfl
@[simp] theorem State.setPc_romName : (s.setPc a).romName = s.romName := rfl
@[simp] theorem State.setPc_romSize : (s.setPc a).romSize = s.romSize := rfl
@[simp] theorem State.setPc_opcodesPerFrame : (s.setPc a).opcodesPerFrame = s.opcodesPerFrame := rfl
@[simp] theorem State.setPc_running : (s.setPc a).running = s.running := rfl
@[simp] theorem State.setPc_stepOnce : (s.setPc a).stepOnce = s.stepOnce := rfl
@[simp] theorem State.setPc_exitRequested : (s.setPc a).exitRequested = s.exitRequested := rfl
@[simp] theorem State.setPc_error : (s.setPc a).error = s.error := rfl
@[simp] theorem State.setPc_currentFrame : (s.setPc a).currentFrame = s.currentFrame := rfl
@[simp] theorem State.setPc_actualFrameTime : (s.setPc a).actualFrameTime = s.actualFrameTime := rfl
@[simp] theorem State.setPc_frameTimeWithSleep : (s.setPc a).frameTimeWithSleep = s.frameTimeWithSleep := rfl
@[simp] theorem State.setPc_fps : (s.setPc a).fps = s.fps := rfl
@[simp] theorem State.setPc_wait : (s.setPc a).wait = s.wait := rfl
@[simp] theorem State.setPc_carriedError : (s.setPc a).carriedError = s.carriedError := rfl
@[simp] theorem State.setPc_snapshot : (s.setPc a).snapshot = s.snapshot := rfl
@[simp] theorem State.setPc_cmdFifo : (s.setPc a).cmdFifo = s.cmdFifo := rfl
@[simp] theorem State.setPc_config : (s.setPc a).config = s.config := rfl
@[simp] theorem State.setPc_phase : (s.setPc a).phase = s.phase := rfl
@[simp] theorem State.setPc_batchLeft : (s.setPc a).batchLeft = s.batchLeft := rfl
@[simp] theorem State.setPc_applied : (s.setPc a).applied = s.applied := rfl
@[simp] theorem State.setPc_frameStart : (s.setPc a).frameStart = s.frameStart := rfl
@[simp] theorem State.setPc_clock : (s.setPc a).clock = s.clock := rfl
@[simp] theorem State.setPc_randIn : (s.setPc a).randIn = s.randIn := rfl
@[simp] theorem State.setPc_clockIn : (s.setPc a).clockIn = s.clockIn := rfl
@[simp] theorem State.setPc_sleepOut : (s.setPc a).sleepOut = s.sleepOut := rfl
@[simp] theorem State.setPc_romRead : (s.setPc a).romRead = s.romRead := rfl

end

/-! ## setDt -/

section
variable (s : State) (b : Byte)

@[simp] theorem State.setDt_mem : (s.setDt b).mem = s.mem := rfl
@[simp] theorem State.setDt_v : (s.setDt b).v = s.v := rfl
@[simp] theorem State.setDt_i : (s.setDt b).i = s.i := rfl
@[simp] theorem State.setDt_pc : (s.setDt b).pc = s.pc := rfl
@[simp] theorem State.setDt_callStack : (s.setDt b).callStack = s.callStack := rfl
@[simp] theorem State.setDt_dt : (s.setDt b).dt = b := rfl
@[simp] theorem State.setDt_st : (s.setDt b).st = s.st := rfl
@[simp] theorem State.setDt_fb : (s.setDt b).fb = s.fb := rfl
@[simp] theorem State.setDt_keys : (s.setDt b).keys = s.keys := rfl
@[simp] theorem State.setDt_romName : (s.setDt b).romName = s.romName := rfl
@[simp] theorem State.setDt_romSize : (s.setDt b).romSize = s.romSize := rfl
@[simp] theorem State.setDt_opcodesPerFrame : (s.setDt b).opcodesPerFrame = s.opcodesPerFrame := rfl
@[simp] theorem State.setDt_running : (s.setDt b).running = s.running := rfl
@[simp] theorem State.setDt_stepOnce : (s.setDt b).stepOnce = s.stepOnce := rfl
@[simp] theorem State.setDt_exitRequested : (s.setDt b).exitRequested = s.exitRequested := rfl
@[simp] theorem State.setDt_error : (s.setDt b).error = s.error := rfl
@[simp] theorem State.setDt_currentFrame : (s.setDt b).currentFrame = s.currentFrame := rfl
@[simp] theorem State.setDt_actualFrameTime : (s.setDt b).actualFrameTime = s.actualFrameTime := rfl
@[simp] theorem State.setDt_frameTimeWithSleep : (s.setDt b).frameTimeWithSleep = s.frameTimeWithSleep := rfl
@[simp] theorem State.setDt_fps : (s.setDt b).fps = s.fps := rfl
@[simp] theorem State.setDt_wait : (s.setDt b).wait = s.wait := rfl
@[simp] theorem State.setDt_carriedError : (s.setDt b).carriedError = s.carriedError := rfl
@[simp] theorem State.setDt_snapshot : (s.setDt b).snapshot = s.snapshot := rfl
@[simp] theorem State.setDt_cmdFifo : (s.setDt b).cmdFifo = s.cmdFifo := rfl
@[simp] theorem State.setDt_config : (s.setDt b).config = s.config := rfl
@[simp] theorem State.setDt_phase : (s.setDt b).phase = s.phase := rfl
@[simp] theorem State.setDt_batchLeft : (s.setDt b).batchLeft = s.batchLeft := rfl
@[simp] theorem State.setDt_applied : (s.setDt b).applied = s.applied := rfl
@[simp] theorem State.setDt_frameStart : (s.setDt b).frameStart = s.frameStart := rfl
@[simp] theorem State.setDt_clock : (s.setDt b).clock = s.clock := rfl
@[simp] theorem State.setDt_randIn : (s.setDt b).randIn = s.randIn := rfl
@[simp] theorem State.setDt_clockIn : (s.setDt b).clockIn = s.clockIn := rfl
@[simp] theorem State.setDt_sleepOut : (s.setDt b).sleepOut = s.sleepOut := rfl
@[simp] theorem State.setDt_romRead : (s.setDt b).romRead = s.romRead := rfl

end

/-! ## setSt -/

section
variable (s : State) (b : Byte)

@[simp] theorem State.setSt_mem : (s.setSt b).mem = s.mem := rfl
@[simp] theorem State.setSt_v : (s.setSt b).v = s.v := rfl
@[simp] theorem State.setSt_i : (s.setSt b).i = s.i := rfl
@[simp] theorem State.setSt_pc : (s.setSt b).pc = s.pc := rfl
@[simp] theorem State.setSt_callStack : (s.setSt b).callStack = s.callStack := rfl
@[simp] theorem State.setSt_dt : (s.setSt b).dt = s.dt := rfl
@[simp] theorem State.setSt_st : (s.setSt b).st = b := rfl
@[simp] theorem State.setSt_fb : (s.setSt b).fb = s.fb := rfl
@[simp] theorem State.setSt_keys : (s.setSt b).keys = s.keys := rfl
@[simp] theorem State.setSt_romName : (s.setSt b).romName = s.romName := rfl
@[simp] theorem State.setSt_romSize : (s.setSt b).romSize = s.romSize := rfl
@[simp] theorem State.setSt_opcodesPerFrame : (s.setSt b).opcodesPerFrame = s.opcodesPerFrame := rfl
@[simp] theorem State.setSt_running : (s.setSt b).running = s.running := rfl
@[simp] theorem State.setSt_stepOnce : (s.setSt b).stepOnce = s.stepOnce := rfl
@[simp] theorem State.setSt_exitRequested : (s.setSt b).exitRequested = s.exitRequested := rfl
@[simp] theorem State.setSt_error : (s.setSt b).error = s.error := rfl
@[simp] theorem State.setSt_currentFrame : (s.setSt b).currentFrame = s.currentFrame := rfl
@[simp] theorem State.setSt_actualFrameTime : (s.setSt b).actualFrameTime = s.actualFrameTime := rfl
@[simp] theorem State.setSt_frameTimeWithSleep : (s.setSt b).frameTimeWithSleep = s.frameTimeWithSleep := rfl
@[simp] theorem State.setSt_fps : (s.setSt b).fps = s.fps := rfl
@[simp] theorem State.setSt_wait : (s.setSt b).wait = s.wait := rfl
@[simp] theorem State.setSt_carriedError : (s.setSt b).carriedError = s.carriedError := rfl
@[simp] theorem State.setSt_snapshot : (s.setSt b).snapshot = s.snapshot := rfl
@[simp] theorem State.setSt_cmdFifo : (s.setSt b).cmdFifo = s.cmdFifo := rfl
@[simp] theorem State.setSt_config : (s.setSt b).config = s.config := rfl
@[simp] theorem State.setSt_phase : (s.setSt b).phase = s.phase := rfl
@[simp] theorem State.setSt_batchLeft : (s.setSt b).batchLeft = s.batchLeft := rfl
@[simp] theorem State.setSt_applied : (s.setSt b).applied = s.applied := rfl
@[simp] theorem State.setSt_frameStart : (s.setSt b).frameStart = s.frameStart := rfl
@[simp] theorem State.setSt_clock : (s.setSt b).clock = s.clock := rfl
@[simp] theorem State.setSt_randIn : (s.setSt b).randIn = s.randIn := rfl
@[simp] theorem State.setSt_clockIn : (s.setSt b).clockIn = s.clockIn := rfl
@[simp] theorem State.setSt_sleepOut : (s.setSt b).sleepOut = s.sleepOut := rfl
@[simp] theorem State.setSt_romRead : (s.setSt b).romRead = s.romRead := rfl

end

/-! ## writeBytes -/

section
variable (s : State) (a : Nat) (bs : List Byte)

@[simp] theorem State.writeBytes_mem : (s.writeBytes a bs).mem = Memory.writeAll s.config.font s.mem a bs := rfl
@[simp] theorem State.writeBytes_v : (s.writeBytes a bs).v = s.v := rfl
@[simp] theorem State.writeBytes_i : (s.writeBytes a bs).i = s.i := rfl
@[simp] theorem State.writeBytes_pc : (s.writeBytes a bs).pc = s.pc := rfl
@[simp] theorem State.writeBytes_callStack : (s.writeBytes a bs).callStack = s.callStack := rfl
@[simp] theorem State.writeBytes_dt : (s.writeBytes a bs).dt = s.dt := rfl
@[simp] theorem State.writeBytes_st : (s.writeBytes a bs).st = s.st := rfl
@[simp] theorem State.writeBytes_fb : (s.writeBytes a bs).fb = s.fb := rfl
@[simp] theorem State.writeBytes_keys : (s.writeBytes a bs).keys = s.keys := rfl
@[simp] theorem State.writeBytes_romName : (s.writeBytes a bs).romName = s.romName := rfl
@[simp] theorem State.writeBytes_romSize : (s.writeBytes a bs).romSize = s.romSize := rfl
@[simp] theorem State.writeBytes_opcodesPerFrame : (s.writeBytes a bs).opcodesPerFrame = s.opcodesPerFrame := rfl
@[simp] theorem State.writeBytes_running : (s.writeBytes a bs).running = s.running := rfl
@[simp] theorem State.writeBytes_stepOnce : (s.writeBytes a bs).stepOnce = s.stepOnce := rfl
@[simp] theorem State.writeBytes_exitRequested : (s.writeBytes a bs).exitRequested = s.exitRequested := rfl
@[simp] theorem State.writeBytes_error : (s.writeBytes a bs).error = s.error := rfl
@[simp] theorem State.writeBytes_currentFrame : (s.writeBytes a bs).currentFrame = s.currentFrame := rfl
@[simp] theorem State.writeBytes_actualFrameTime : (s.writeBytes a bs).actualFrameTime = s.actualFrameTime := rfl
@[simp] theorem State.writeBytes_frameTimeWithSleep : (s.writeBytes a bs).frameTimeWithSleep = s.frameTimeWithSleep := rfl
@[simp] theorem State.writeBytes_fps : (s.writeBytes a bs).fps = s.fps := rfl
@[simp] theorem State.writeBytes_wait : (s.writeBytes a bs).wait = s.wait := rfl
@[simp] theorem State.writeBytes_carriedError : (s.writeBytes a bs).carriedError = s.carriedError := rfl
@[simp] theorem State.writeBytes_snapshot : (s.writeBytes a bs).snapshot = s.snapshot := rfl
@[simp] theorem State.writeBytes_cmdFifo : (s.writeBytes a bs).cmdFifo = s.cmdFifo := rfl
@[simp] theorem State.writeBytes_config : (s.writeBytes a bs).config = s.config := rfl
@[simp] theorem State.writeBytes_phase : (s.writeBytes a bs).phase = s.phase := rfl
@[simp] theorem State.writeBytes_batchLeft : (s.writeBytes a bs).batchLeft = s.batchLeft := rfl
@[simp] theorem State.writeBytes_applied : (s.writeBytes a bs).applied = s.applied := rfl
@[simp] theorem State.writeBytes_frameStart : (s.writeBytes a bs).frameStart = s.frameStart := rfl
@[simp] theorem State.writeBytes_clock : (s.writeBytes a bs).clock = s.clock := rfl
@[simp] theorem State.writeBytes_randIn : (s.writeBytes a bs).randIn = s.randIn := rfl
@[simp] theorem State.writeBytes_clockIn : (s.writeBytes a bs).clockIn = s.clockIn := rfl
@[simp] theorem State.writeBytes_sleepOut : (s.writeBytes a bs).sleepOut = s.sleepOut := rfl
@[simp] theorem State.writeBytes_romRead : (s.writeBytes a bs).romRead = s.romRead := rfl

end

/-! ## dropRand -/

section
variable (s : State)

@[simp] theorem State.dropRand_mem : s.dropRand.mem = s.mem := rfl
@[simp] theorem State.dropRand_v : s.dropRand.v = s.v := rfl
@[simp] theorem State.dropRand_i : s.dropRand.i = s.i := rfl
@[simp] theorem State.dropRand_pc : s.dropRand.pc = s.pc := rfl
@[simp] theorem State.dropRand_callStack : s.dropRand.callStack = s.callStack := rfl
@[simp] theorem State.dropRand_dt : s.dropRand.dt = s.dt := rfl
@[simp] theorem State.dropRand_st : s.dropRand.st = s.st := rfl
@[simp] theorem State.dropRand_fb : s.dropRand.fb = s.fb := rfl
@[simp] theorem State.dropRand_keys : s.dropRand.keys = s.keys := rfl
@[simp] theorem State.dropRand_romName : s.dropRand.romName = s.romName := rfl
@[simp] theorem State.dropRand_romSize : s.dropRand.romSize = s.romSize := rfl
@[simp] theorem State.dropRand_opcodesPerFrame : s.dropRand.opcodesPerFrame = s.opcodesPerFrame := rfl
@[simp] theorem State.dropRand_running : s.dropRand.running = s.running := rfl
@[simp] theorem State.dropRand_stepOnce : s.dropRand.stepOnce = s.stepOnce := rfl
@[simp] theorem State.dropRand_exitRequested : s.dropRand.exitRequested = s.exitRequested := rfl
@[simp] theorem State.dropRand_error : s.dropRand.error = s.error := rfl
@[simp] theorem State.dropRand_currentFrame : s.dropRand.currentFrame = s.currentFrame := rfl
@[simp] theorem State.dropRand_actualFrameTime : s.dropRand.actualFrameTime = s.actualFrameTime := rfl
@[simp] theorem State.dropRand_frameTimeWithSleep : s.dropRand.frameTimeWithSleep = s.frameTimeWithSleep := rfl
@[simp] theorem State.dropRand_fps : s.dropRand.fps = s.fps := rfl
@[simp] theorem State.dropRand_wait : s.dropRand.wait = s.wait := rfl
@[simp] theorem State.dropRand_carriedError : s.dropRand.carriedError = s.carriedError := rfl
@[simp] theorem State.dropRand_snapshot : s.dropRand.snapshot = s.snapshot := rfl
@[simp] theorem State.dropRand_cmdFifo : s.dropRand.cmdFifo = s.cmdFifo := rfl
@[simp] theorem State.dropRand_config : s.dropRand.config = s.config := rfl
@[simp] theorem State.dropRand_phase : s.dropRand.phase = s.phase := rfl
@[simp] theorem State.dropRand_batchLeft : s.dropRand.batchLeft = s.batchLeft := rfl
@[simp] theorem State.dropRand_applied : s.dropRand.applied = s.applied := rfl
@[simp] theorem State.dropRand_frameStart : s.dropRand.frameStart = s.frameStart := rfl
@[simp] theorem State.dropRand_clock : s.dropRand.clock = s.clock := rfl
@[simp] theorem State.dropRand_randIn : s.dropRand.randIn = s.randIn.take := rfl
@[simp] theorem State.dropRand_clockIn : s.dropRand.clockIn = s.clockIn := rfl
@[simp] theorem State.dropRand_sleepOut : s.dropRand.sleepOut = s.sleepOut := rfl
@[simp] theorem State.dropRand_romRead : s.dropRand.romRead = s.romRead := rfl

end

/-! ## publish -/

section
variable (s : State)

@[simp] theorem State.publish_mem : s.publish.mem = s.mem := rfl
@[simp] theorem State.publish_v : s.publish.v = s.v := rfl
@[simp] theorem State.publish_i : s.publish.i = s.i := rfl
@[simp] theorem State.publish_pc : s.publish.pc = s.pc := rfl
@[simp] theorem State.publish_callStack : s.publish.callStack = s.callStack := rfl
@[simp] theorem State.publish_dt : s.publish.dt = s.dt := rfl
@[simp] theorem State.publish_st : s.publish.st = s.st := rfl
@[simp] theorem State.publish_fb : s.publish.fb = s.fb := rfl
@[simp] theorem State.publish_keys : s.publish.keys = s.keys := rfl
@[simp] theorem State.publish_romName : s.publish.romName = s.romName := rfl
@[simp] theorem State.publish_romSize : s.publish.romSize = s.romSize := rfl
@[simp] theorem State.publish_opcodesPerFrame : s.publish.opcodesPerFrame = s.opcodesPerFrame := rfl
@[simp] theorem State.publish_running : s.publish.running = s.running := rfl
@[simp] theorem State.publish_stepOnce : s.publish.stepOnce = s.stepOnce := rfl
@[simp] theorem State.publish_exitRequested : s.publish.exitRequested = s.exitRequested := rfl
@[simp] theorem State.publish_error : s.publish.error = s.error := rfl
@[simp] theorem State.publish_currentFrame : s.publish.currentFrame = s.currentFrame := rfl
@[simp] theorem State.publish_actualFrameTime : s.publish.actualFrameTime = s.actualFrameTime := rfl
@[simp] theorem State.publish_frameTimeWithSleep : s.publish.frameTimeWithSleep = s.frameTimeWithSleep := rfl
@[simp] theorem State.publish_fps : s.publish.fps = s.fps := rfl
@[simp] theorem State.publish_wait : s.publish.wait = s.wait := rfl
@[simp] theorem State.publish_carriedError : s.publish.carriedError = s.carriedError := rfl
@[simp] theorem State.publish_snapshot : s.publish.snapshot = ⟨s.toMachineState, s.wait.isSome⟩ := rfl
@[simp] theorem State.publish_cmdFifo : s.publish.cmdFifo = s.cmdFifo := rfl
@[simp] theorem State.publish_config : s.publish.config = s.config := rfl
@[simp] theorem State.publish_phase : s.publish.phase = s.phase := rfl
@[simp] theorem State.publish_batchLeft : s.publish.batchLeft = s.batchLeft := rfl
@[simp] theorem State.publish_applied : s.publish.applied = s.applied := rfl
@[simp] theorem State.publish_frameStart : s.publish.frameStart = s.frameStart := rfl
@[simp] theorem State.publish_clock : s.publish.clock = s.clock := rfl
@[simp] theorem State.publish_randIn : s.publish.randIn = s.randIn := rfl
@[simp] theorem State.publish_clockIn : s.publish.clockIn = s.clockIn := rfl
@[simp] theorem State.publish_sleepOut : s.publish.sleepOut = s.sleepOut := rfl
@[simp] theorem State.publish_romRead : s.publish.romRead = s.romRead := rfl

end

/-! ## raiseError -/

section
variable (s : State) (e : EngineError)

@[simp] theorem State.raiseError_mem : (s.raiseError e).mem = s.mem := rfl
@[simp] theorem State.raiseError_v : (s.raiseError e).v = s.v := rfl
@[simp] theorem State.raiseError_i : (s.raiseError e).i = s.i := rfl
@[simp] theorem State.raiseError_pc : (s.raiseError e).pc = s.pc := rfl
@[simp] theorem State.raiseError_callStack : (s.raiseError e).callStack = s.callStack := rfl
@[simp] theorem State.raiseError_dt : (s.raiseError e).dt = s.dt := rfl
@[simp] theorem State.raiseError_st : (s.raiseError e).st = s.st := rfl
@[simp] theorem State.raiseError_fb : (s.raiseError e).fb = s.fb := rfl
@[simp] theorem State.raiseError_keys : (s.raiseError e).keys = s.keys := rfl
@[simp] theorem State.raiseError_romName : (s.raiseError e).romName = s.romName := rfl
@[simp] theorem State.raiseError_romSize : (s.raiseError e).romSize = s.romSize := rfl
@[simp] theorem State.raiseError_opcodesPerFrame : (s.raiseError e).opcodesPerFrame = s.opcodesPerFrame := rfl
@[simp] theorem State.raiseError_running : (s.raiseError e).running = s.running := rfl
@[simp] theorem State.raiseError_stepOnce : (s.raiseError e).stepOnce = s.stepOnce := rfl
@[simp] theorem State.raiseError_exitRequested : (s.raiseError e).exitRequested = s.exitRequested := rfl
@[simp] theorem State.raiseError_error : (s.raiseError e).error = some (s.error.getD e) := rfl
@[simp] theorem State.raiseError_currentFrame : (s.raiseError e).currentFrame = s.currentFrame := rfl
@[simp] theorem State.raiseError_actualFrameTime : (s.raiseError e).actualFrameTime = s.actualFrameTime := rfl
@[simp] theorem State.raiseError_frameTimeWithSleep : (s.raiseError e).frameTimeWithSleep = s.frameTimeWithSleep := rfl
@[simp] theorem State.raiseError_fps : (s.raiseError e).fps = s.fps := rfl
@[simp] theorem State.raiseError_wait : (s.raiseError e).wait = s.wait := rfl
@[simp] theorem State.raiseError_carriedError : (s.raiseError e).carriedError = s.carriedError := rfl
@[simp] theorem State.raiseError_snapshot : (s.raiseError e).snapshot = s.snapshot := rfl
@[simp] theorem State.raiseError_cmdFifo : (s.raiseError e).cmdFifo = s.cmdFifo := rfl
@[simp] theorem State.raiseError_config : (s.raiseError e).config = s.config := rfl
@[simp] theorem State.raiseError_phase : (s.raiseError e).phase = s.phase := rfl
@[simp] theorem State.raiseError_batchLeft : (s.raiseError e).batchLeft = s.batchLeft := rfl
@[simp] theorem State.raiseError_applied : (s.raiseError e).applied = s.applied := rfl
@[simp] theorem State.raiseError_frameStart : (s.raiseError e).frameStart = s.frameStart := rfl
@[simp] theorem State.raiseError_clock : (s.raiseError e).clock = s.clock := rfl
@[simp] theorem State.raiseError_randIn : (s.raiseError e).randIn = s.randIn := rfl
@[simp] theorem State.raiseError_clockIn : (s.raiseError e).clockIn = s.clockIn := rfl
@[simp] theorem State.raiseError_sleepOut : (s.raiseError e).sleepOut = s.sleepOut := rfl
@[simp] theorem State.raiseError_romRead : (s.raiseError e).romRead = s.romRead := rfl

end

/-! ## readClock -/

section
variable (s : State)

@[simp] theorem State.readClock_mem : s.readClock.mem = s.mem := rfl
@[simp] theorem State.readClock_v : s.readClock.v = s.v := rfl
@[simp] theorem State.readClock_i : s.readClock.i = s.i := rfl
@[simp] theorem State.readClock_pc : s.readClock.pc = s.pc := rfl
@[simp] theorem State.readClock_callStack : s.readClock.callStack = s.callStack := rfl
@[simp] theorem State.readClock_dt : s.readClock.dt = s.dt := rfl
@[simp] theorem State.readClock_st : s.readClock.st = s.st := rfl
@[simp] theorem State.readClock_fb : s.readClock.fb = s.fb := rfl
@[simp] theorem State.readClock_keys : s.readClock.keys = s.keys := rfl
@[simp] theorem State.readClock_romName : s.readClock.romName = s.romName := rfl
@[simp] theorem State.readClock_romSize : s.readClock.romSize = s.romSize := rfl
@[simp] theorem State.readClock_opcodesPerFrame : s.readClock.opcodesPerFrame = s.opcodesPerFrame := rfl
@[simp] theorem State.readClock_running : s.readClock.running = s.running := rfl
@[simp] theorem State.readClock_stepOnce : s.readClock.stepOnce = s.stepOnce := rfl
@[simp] theorem State.readClock_exitRequested : s.readClock.exitRequested = s.exitRequested := rfl
@[simp] theorem State.readClock_error : s.readClock.error = s.error := rfl
@[simp] theorem State.readClock_currentFrame : s.readClock.currentFrame = s.currentFrame := rfl
@[simp] theorem State.readClock_actualFrameTime : s.readClock.actualFrameTime = s.actualFrameTime := rfl
@[simp] theorem State.readClock_frameTimeWithSleep : s.readClock.frameTimeWithSleep = s.frameTimeWithSleep := rfl
@[simp] theorem State.readClock_fps : s.readClock.fps = s.fps := rfl
@[simp] theorem State.readClock_wait : s.readClock.wait = s.wait := rfl
@[simp] theorem State.readClock_carriedError : s.readClock.carriedError = s.carriedError := rfl
@[simp] theorem State.readClock_snapshot : s.readClock.snapshot = s.snapshot := rfl
@[simp] theorem State.readClock_cmdFifo : s.readClock.cmdFifo = s.cmdFifo := rfl
@[simp] theorem State.readClock_config : s.readClock.config = s.config := rfl
@[simp] theorem State.readClock_phase : s.readClock.phase = s.phase := rfl
@[simp] theorem State.readClock_batchLeft : s.readClock.batchLeft = s.batchLeft := rfl
@[simp] theorem State.readClock_applied : s.readClock.applied = s.applied := rfl
@[simp] theorem State.readClock_frameStart : s.readClock.frameStart = s.frameStart := rfl
@[simp] theorem State.readClock_clock : s.readClock.clock = s.clockReading := rfl
@[simp] theorem State.readClock_randIn : s.readClock.randIn = s.randIn := rfl
@[simp] theorem State.readClock_clockIn : s.readClock.clockIn = s.clockIn.take := rfl
@[simp] theorem State.readClock_sleepOut : s.readClock.sleepOut = s.sleepOut := rfl
@[simp] theorem State.readClock_romRead : s.readClock.romRead = s.romRead := rfl

end

/-! ## requestSleep -/

section
variable (s : State) (q : Duration)

@[simp] theorem State.requestSleep_mem : (s.requestSleep q).mem = s.mem := rfl
@[simp] theorem State.requestSleep_v : (s.requestSleep q).v = s.v := rfl
@[simp] theorem State.requestSleep_i : (s.requestSleep q).i = s.i := rfl
@[simp] theorem State.requestSleep_pc : (s.requestSleep q).pc = s.pc := rfl
@[simp] theorem State.requestSleep_callStack : (s.requestSleep q).callStack = s.callStack := rfl
@[simp] theorem State.requestSleep_dt : (s.requestSleep q).dt = s.dt := rfl
@[simp] theorem State.requestSleep_st : (s.requestSleep q).st = s.st := rfl
@[simp] theorem State.requestSleep_fb : (s.requestSleep q).fb = s.fb := rfl
@[simp] theorem State.requestSleep_keys : (s.requestSleep q).keys = s.keys := rfl
@[simp] theorem State.requestSleep_romName : (s.requestSleep q).romName = s.romName := rfl
@[simp] theorem State.requestSleep_romSize : (s.requestSleep q).romSize = s.romSize := rfl
@[simp] theorem State.requestSleep_opcodesPerFrame : (s.requestSleep q).opcodesPerFrame = s.opcodesPerFrame := rfl
@[simp] theorem State.requestSleep_running : (s.requestSleep q).running = s.running := rfl
@[simp] theorem State.requestSleep_stepOnce : (s.requestSleep q).stepOnce = s.stepOnce := rfl
@[simp] theorem State.requestSleep_exitRequested : (s.requestSleep q).exitRequested = s.exitRequested := rfl
@[simp] theorem State.requestSleep_error : (s.requestSleep q).error = s.error := rfl
@[simp] theorem State.requestSleep_currentFrame : (s.requestSleep q).currentFrame = s.currentFrame := rfl
@[simp] theorem State.requestSleep_actualFrameTime : (s.requestSleep q).actualFrameTime = s.actualFrameTime := rfl
@[simp] theorem State.requestSleep_frameTimeWithSleep : (s.requestSleep q).frameTimeWithSleep = s.frameTimeWithSleep := rfl
@[simp] theorem State.requestSleep_fps : (s.requestSleep q).fps = s.fps := rfl
@[simp] theorem State.requestSleep_wait : (s.requestSleep q).wait = s.wait := rfl
@[simp] theorem State.requestSleep_carriedError : (s.requestSleep q).carriedError = s.carriedError := rfl
@[simp] theorem State.requestSleep_snapshot : (s.requestSleep q).snapshot = s.snapshot := rfl
@[simp] theorem State.requestSleep_cmdFifo : (s.requestSleep q).cmdFifo = s.cmdFifo := rfl
@[simp] theorem State.requestSleep_config : (s.requestSleep q).config = s.config := rfl
@[simp] theorem State.requestSleep_phase : (s.requestSleep q).phase = s.phase := rfl
@[simp] theorem State.requestSleep_batchLeft : (s.requestSleep q).batchLeft = s.batchLeft := rfl
@[simp] theorem State.requestSleep_applied : (s.requestSleep q).applied = s.applied := rfl
@[simp] theorem State.requestSleep_frameStart : (s.requestSleep q).frameStart = s.frameStart := rfl
@[simp] theorem State.requestSleep_clock : (s.requestSleep q).clock = s.clock := rfl
@[simp] theorem State.requestSleep_randIn : (s.requestSleep q).randIn = s.randIn := rfl
@[simp] theorem State.requestSleep_clockIn : (s.requestSleep q).clockIn = s.clockIn := rfl
@[simp] theorem State.requestSleep_sleepOut : (s.requestSleep q).sleepOut = ⟨s.sleepOut.take, some q⟩ := rfl
@[simp] theorem State.requestSleep_romRead : (s.requestSleep q).romRead = s.romRead := rfl

end

/-! ## requestRom -/

section
variable (s : State) (path : String)

@[simp] theorem State.requestRom_mem : (s.requestRom path).mem = s.mem := rfl
@[simp] theorem State.requestRom_v : (s.requestRom path).v = s.v := rfl
@[simp] theorem State.requestRom_i : (s.requestRom path).i = s.i := rfl
@[simp] theorem State.requestRom_pc : (s.requestRom path).pc = s.pc := rfl
@[simp] theorem State.requestRom_callStack : (s.requestRom path).callStack = s.callStack := rfl
@[simp] theorem State.requestRom_dt : (s.requestRom path).dt = s.dt := rfl
@[simp] theorem State.requestRom_st : (s.requestRom path).st = s.st := rfl
@[simp] theorem State.requestRom_fb : (s.requestRom path).fb = s.fb := rfl
@[simp] theorem State.requestRom_keys : (s.requestRom path).keys = s.keys := rfl
@[simp] theorem State.requestRom_romName : (s.requestRom path).romName = s.romName := rfl
@[simp] theorem State.requestRom_romSize : (s.requestRom path).romSize = s.romSize := rfl
@[simp] theorem State.requestRom_opcodesPerFrame : (s.requestRom path).opcodesPerFrame = s.opcodesPerFrame := rfl
@[simp] theorem State.requestRom_running : (s.requestRom path).running = s.running := rfl
@[simp] theorem State.requestRom_stepOnce : (s.requestRom path).stepOnce = s.stepOnce := rfl
@[simp] theorem State.requestRom_exitRequested : (s.requestRom path).exitRequested = s.exitRequested := rfl
@[simp] theorem State.requestRom_error : (s.requestRom path).error = s.error := rfl
@[simp] theorem State.requestRom_currentFrame : (s.requestRom path).currentFrame = s.currentFrame := rfl
@[simp] theorem State.requestRom_actualFrameTime : (s.requestRom path).actualFrameTime = s.actualFrameTime := rfl
@[simp] theorem State.requestRom_frameTimeWithSleep : (s.requestRom path).frameTimeWithSleep = s.frameTimeWithSleep := rfl
@[simp] theorem State.requestRom_fps : (s.requestRom path).fps = s.fps := rfl
@[simp] theorem State.requestRom_wait : (s.requestRom path).wait = s.wait := rfl
@[simp] theorem State.requestRom_carriedError : (s.requestRom path).carriedError = s.carriedError := rfl
@[simp] theorem State.requestRom_snapshot : (s.requestRom path).snapshot = s.snapshot := rfl
@[simp] theorem State.requestRom_cmdFifo : (s.requestRom path).cmdFifo = s.cmdFifo := rfl
@[simp] theorem State.requestRom_config : (s.requestRom path).config = s.config := rfl
@[simp] theorem State.requestRom_phase : (s.requestRom path).phase = s.phase := rfl
@[simp] theorem State.requestRom_batchLeft : (s.requestRom path).batchLeft = s.batchLeft := rfl
@[simp] theorem State.requestRom_applied : (s.requestRom path).applied = s.applied := rfl
@[simp] theorem State.requestRom_frameStart : (s.requestRom path).frameStart = s.frameStart := rfl
@[simp] theorem State.requestRom_clock : (s.requestRom path).clock = s.clock := rfl
@[simp] theorem State.requestRom_randIn : (s.requestRom path).randIn = s.randIn := rfl
@[simp] theorem State.requestRom_clockIn : (s.requestRom path).clockIn = s.clockIn := rfl
@[simp] theorem State.requestRom_sleepOut : (s.requestRom path).sleepOut = s.sleepOut := rfl
@[simp] theorem State.requestRom_romRead : (s.requestRom path).romRead = 
    ⟨⟨s.romRead.pending.eraseP (·.1 == path), s.romRead.taken + 1⟩, some path⟩ := rfl

end

end Sys2Proof.Machine
end

