-- ==== Sys2Proof/Laws/Ops.lean ====
section
/-! SUPPORT. Registers, errors, the call stack and instruction endings: one lemma per shared operation,
which later proofs cite instead of unfolding it. -/

namespace Sys2Proof.Machine

/-! ## General registers -/

section
variable (s : State) (r q : Reg) (b : Byte) (a : Word)

@[simp] theorem State.readV_setV : (s.setV r b).readV q = if q = r then b else s.readV q := by
  simp only [State.readV, State.setV_v, Vector.getElem_set, Fin.ext_iff, eq_comm]

theorem State.readV_setV_self : (s.setV r b).readV r = b := by simp

theorem State.readV_setV_of_ne (h : q ≠ r) : (s.setV r b).readV q = s.readV q := by simp [h]

@[simp] theorem State.readV_setI : (s.setI a).readV q = s.readV q := rfl
@[simp] theorem State.readV_setPc : (s.setPc a).readV q = s.readV q := rfl
@[simp] theorem State.readV_setDt : (s.setDt b).readV q = s.readV q := rfl
@[simp] theorem State.readV_setSt : (s.setSt b).readV q = s.readV q := rfl
@[simp] theorem State.readV_dropRand : s.dropRand.readV q = s.readV q := rfl
@[simp] theorem State.readV_publish : s.publish.readV q = s.readV q := rfl
@[simp] theorem State.readV_raiseError (e : EngineError) : (s.raiseError e).readV q = s.readV q := rfl

/-- Two register files that read alike are equal. -/
theorem registers_ext {v w : Vector Byte 16} (h : ∀ k : Reg, v[k.val] = w[k.val]) : v = w :=
  Vector.ext fun i hi => h ⟨i, hi⟩

end

/-! ## Result and flag (R170, R179, R181) -/

section
variable (s : State) (x q : Reg) (result flag : Byte) (outBit shift : Byte → Byte)

@[simp] theorem State.readV_resultThenFlag :
    (s.resultThenFlag x result flag).readV q
      = if q = 15 then flag else if q = x then result else s.readV q := by
  simp [State.resultThenFlag]

theorem State.resultThenFlag_eq :
    s.resultThenFlag x result flag = { s with v := (s.resultThenFlag x result flag).v } := rfl

/-- X ≠ F: VF holds the out-bit, VX the shifted value. X = F: VF holds the shifted out-bit. -/
theorem State.readV_outBitThenShift :
    (s.outBitThenShift x outBit shift).readV q
      = if q = x then (if x = 15 then shift (outBit (s.readV x)) else shift (s.readV x))
        else if q = 15 then outBit (s.readV x) else s.readV q := by
  simp only [State.outBitThenShift, State.readV_setV]
  split
  · split <;> simp_all
  · rfl

theorem State.outBitThenShift_eq :
    s.outBitThenShift x outBit shift = { s with v := (s.outBitThenShift x outBit shift).v } := rfl

end

/-! ## A run of registers (R205) -/

theorem getElem_loadRegisters (v : Vector Byte 16) (k : Nat) (bs : List Byte) (j : Nat) (hj : j < 16) :
    (loadRegisters v k bs)[j]
      = if h : k ≤ j ∧ j - k < bs.length then bs[j - k]'h.2 else v[j] := by
  induction bs generalizing v k with
  | nil => simp [loadRegisters]
  | cons b rest ih =>
    rw [loadRegisters, ih]
    by_cases hjk : j = k
    · subst hjk; simp
    · by_cases hx : k + 1 ≤ j ∧ j - (k + 1) < rest.length
      · rw [dif_pos hx, dif_pos (by simp; omega), List.getElem_cons, dif_neg (by omega)]
        congr 1
      · rw [dif_neg hx, dif_neg (by simp; omega), Vector.getElem_setIfInBounds, if_neg (Ne.symm hjk)]

/-! ## Bytes at I -/

section
variable (s : State) (n : Nat)

@[simp] theorem State.addressI_zero : s.addressI 0 = s.i.toNat := rfl

@[simp] theorem State.length_bytesAtI : (s.bytesAtI n).length = n := by simp [State.bytesAtI]

@[simp] theorem State.getElem_bytesAtI (k : Nat) (h : k < (s.bytesAtI n).length) :
    (s.bytesAtI n)[k] = s.readByte (s.addressI k) := by
  simp [State.bytesAtI]

@[simp] theorem State.length_registersTo (x : Reg) : (s.registersTo x).length = x.val + 1 := by
  simp [State.registersTo]

theorem State.getElem_registersTo (x : Reg) (k : Nat) (h : k < (s.registersTo x).length) :
    (s.registersTo x)[k] = s.readV ⟨k, by rw [State.length_registersTo] at h; omega⟩ := by
  simp [State.registersTo, State.readV]

/-- n > 0 reads from I pass exactly when the last is in memory (R61, R64). -/
theorem State.readFaultAtI_none (hn : n ≠ 0) : s.readFaultAtI n = none ↔ s.i.toNat + n ≤ 0x1000 := by
  simp [State.readFaultAtI, readFault_none, hn]

@[simp] theorem State.readFaultAtI_zero : s.readFaultAtI 0 = none := rfl

/-- n > 0 writes from I pass exactly when the last is in memory and the first above a protected font
(R63, R64). -/
theorem State.writeFaultAtI_none (hn : n ≠ 0) :
    s.writeFaultAtI n = none ↔
      s.i.toNat + n ≤ 0x1000 ∧ (s.config.fontWrite = .fault → 0x04F < s.i.toNat) := by
  simp [State.writeFaultAtI, writeFault_none, hn]

end

/-! ## How an instruction ends (R126, R319) -/

section
variable {s t u : State}

/-- Everything `finish` can do: the computed state, or the error in the entry state. -/
theorem finish_eq_next {r : Except EngineError State} (h : finish s r = .next t) :
    r = .ok t ∨ ∃ e, r = .error e ∧ t = s.raiseError e := by
  cases r with
  | ok u => exact .inl (by simpa [finish] using h)
  | error e => exact .inr ⟨e, rfl, by simpa [finish] using h.symm⟩

@[simp] theorem finish_ok : finish s (.ok u) = .next u := rfl

@[simp] theorem finish_error (e : EngineError) : finish s (.error e) = .next (s.raiseError e) := rfl

@[simp] theorem State.access_none (i : Instr) : s.access i none u = .ok u := rfl

@[simp] theorem State.access_some (i : Instr) (a : Nat) (k : FaultKind) :
    s.access i (some (a, k)) u = .error (.memoryFault (some (encode i)) s.fetchAddr a k) := rfl

/-- Everything a checked access can do: the access, none of its addresses failing; or the error of the
lowest failing one. -/
theorem finish_access_eq_next {i : Instr} {f : Option (Nat × FaultKind)}
    (h : finish s (s.access i f u) = .next t) :
    (f = none ∧ t = u) ∨
      ∃ a k, f = some (a, k) ∧ t = s.raiseError (.memoryFault (some (encode i)) s.fetchAddr a k) := by
  rcases f with - | ⟨a, k⟩
  · exact .inl ⟨rfl, by simpa using h.symm⟩
  · exact .inr ⟨a, k, rfl, by simpa using h.symm⟩

/-- Without an error before, taking one records it and changes nothing else. -/
theorem State.raiseError_of_none (h : s.error = none) (e : EngineError) :
    s.raiseError e = { s with error := some e } := by
  simp [State.raiseError, h]

/-- A second error is discarded. -/
theorem State.raiseError_of_some {e₀ : EngineError} (h : s.error = some e₀) (e : EngineError) :
    s.raiseError e = s := by
  unfold State.raiseError
  rw [h, Option.getD_some, ← h]

end

/-! ## The call/return stack controller (R142) -/

section
variable {s t : State} {a : Word}

/-- Everything `push` can do. -/
theorem State.push_eq_ok (h : s.push a = .ok t) :
    s.stackFull = false ∧ t = { s with callStack := s.callStack ++ [a] } := by
  unfold State.push at h
  split at h
  · cases h
  · next hf => exact ⟨by simpa using hf, by injection h with h; exact h.symm⟩

theorem State.push_of_room (h : s.stackFull = false) :
    s.push a = .ok { s with callStack := s.callStack ++ [a] } := by simp [State.push, h]

theorem State.push_of_full (h : s.stackFull = true) :
    s.push a = .error (.stackOverflow s.fetchAddr) := by simp [State.push, h]

/-- With the source's unbounded stack a push never overflows. -/
theorem State.stackFull_unbounded (h : s.config.stackDepth = none) : s.stackFull = false := by
  simp [State.stackFull, h]

/-- Everything `pop` can do. -/
theorem State.popToPc_eq_ok (h : s.popToPc = .ok t) :
    ∃ top rest, s.callStack = rest ++ [top] ∧ t = { s with pc := top, callStack := rest } := by
  unfold State.popToPc at h
  split at h
  · cases h
  · next top htop =>
    refine ⟨top, s.callStack.dropLast, ?_, by injection h with h; exact h.symm⟩
    obtain ⟨rest, hrest⟩ := List.getLast?_eq_some_iff.mp htop
    simp [hrest]

theorem State.popToPc_of_concat {rest : List Word} (h : s.callStack = rest ++ [a]) :
    s.popToPc = .ok { s with pc := a, callStack := rest } := by simp [State.popToPc, h]

theorem State.popToPc_of_empty (h : s.callStack = []) :
    s.popToPc = .error (.invalidReturn s.fetchAddr) := by simp [State.popToPc, h]

end

/-! ## Skips (R141) -/

theorem State.skipIf_eq (s : State) (c : Bool) :
    s.skipIf c = { s with pc := if c then s.pc + 2#16 else s.pc } := by
  cases c <;> rfl

/-! ## Ports -/

@[simp] theorem Port.value_supplied {α : Type} (free : Nat → α) (a : α) (rest : List α) (k : Nat) :
    Port.value free ⟨a :: rest, k⟩ = a := rfl

@[simp] theorem Port.value_free {α : Type} (free : Nat → α) (k : Nat) :
    Port.value free ⟨[], k⟩ = free k := rfl

end Sys2Proof.Machine
end

