-- ==== Sys2Proof/Laws/PerInstr.lean ====
section
/-! SUPPORT. The statements made per instruction: family RoundTrip, one lemma per constructor of Instr. -/

-- One proof at a time: in parallel, the proofs wait for one another's equation lemmas of decode, each in
-- a thread of its own.
set_option Elab.async false

namespace Sys2Proof.Laws

/-- Decoding the word of a well-formed instruction gives the instruction. -/
def RoundTrip.Statement (i : Instr) : Prop := i.wellFormed = true → decode (encode i) = .ok i

/-- Family 0x0: a `0NNN` word is neither 0x00E0 nor 0x00EE. -/
theorem RoundTrip.op0NNN (nnn : BitVec 12) : RoundTrip.Statement (.op0NNN nnn) := by
  intro h
  simp only [Instr.wellFormed, Bool.and_eq_true, bne_iff_ne, ne_eq] at h
  have h1 : encodeNNN 0x0#4 nnn ≠ 0x00E0#16 := fun hw => h.1 (by
    have := congrArg fieldNNN hw; rwa [fieldNNN_encodeNNN] at this)
  have h2 : encodeNNN 0x0#4 nnn ≠ 0x00EE#16 := fun hw => h.2 (by
    have := congrArg fieldNNN hw; rwa [fieldNNN_encodeNNN] at this)
  simp [encode, decode, decodeFamily0, h1, h2]

theorem RoundTrip.op00E0 : RoundTrip.Statement .op00E0 := fun _ => by decide

theorem RoundTrip.op00EE : RoundTrip.Statement .op00EE := fun _ => by decide

theorem RoundTrip.op1NNN (nnn : BitVec 12) : RoundTrip.Statement (.op1NNN nnn) := fun _ => by
  simp [encode, decode]

theorem RoundTrip.op2NNN (nnn : BitVec 12) : RoundTrip.Statement (.op2NNN nnn) := fun _ => by
  simp [encode, decode]

theorem RoundTrip.op3XNN (x : Reg) (nn : Byte) : RoundTrip.Statement (.op3XNN x nn) := fun _ => by
  simp [encode, decode]

theorem RoundTrip.op4XNN (x : Reg) (nn : Byte) : RoundTrip.Statement (.op4XNN x nn) := fun _ => by
  simp [encode, decode]

theorem RoundTrip.op5XY0 (x y : Reg) : RoundTrip.Statement (.op5XY0 x y) := fun _ => by
  simp [encode, decode, decodeFamilyXY0]

theorem RoundTrip.op6XNN (x : Reg) (nn : Byte) : RoundTrip.Statement (.op6XNN x nn) := fun _ => by
  simp [encode, decode]

theorem RoundTrip.op7XNN (x : Reg) (nn : Byte) : RoundTrip.Statement (.op7XNN x nn) := fun _ => by
  simp [encode, decode]

theorem RoundTrip.op8XY0 (x y : Reg) : RoundTrip.Statement (.op8XY0 x y) := fun _ => by
  simp [encode, decode, decodeFamily8]

theorem RoundTrip.op8XY1 (x y : Reg) : RoundTrip.Statement (.op8XY1 x y) := fun _ => by
  simp [encode, decode, decodeFamily8]

theorem RoundTrip.op8XY2 (x y : Reg) : RoundTrip.Statement (.op8XY2 x y) := fun _ => by
  simp [encode, decode, decodeFamily8]

theorem RoundTrip.op8XY3 (x y : Reg) : RoundTrip.Statement (.op8XY3 x y) := fun _ => by
  simp [encode, decode, decodeFamily8]

theorem RoundTrip.op8XY4 (x y : Reg) : RoundTrip.Statement (.op8XY4 x y) := fun _ => by
  simp [encode, decode, decodeFamily8]

theorem RoundTrip.op8XY5 (x y : Reg) : RoundTrip.Statement (.op8XY5 x y) := fun _ => by
  simp [encode, decode, decodeFamily8]

theorem RoundTrip.op8XY6 (x y : Reg) : RoundTrip.Statement (.op8XY6 x y) := fun _ => by
  simp [encode, decode, decodeFamily8]

theorem RoundTrip.op8XY7 (x y : Reg) : RoundTrip.Statement (.op8XY7 x y) := fun _ => by
  simp [encode, decode, decodeFamily8]

theorem RoundTrip.op8XYE (x y : Reg) : RoundTrip.Statement (.op8XYE x y) := fun _ => by
  simp [encode, decode, decodeFamily8]

theorem RoundTrip.op9XY0 (x y : Reg) : RoundTrip.Statement (.op9XY0 x y) := fun _ => by
  simp [encode, decode, decodeFamilyXY0]

theorem RoundTrip.opANNN (nnn : BitVec 12) : RoundTrip.Statement (.opANNN nnn) := fun _ => by
  simp [encode, decode]

theorem RoundTrip.opBNNN (nnn : BitVec 12) : RoundTrip.Statement (.opBNNN nnn) := fun _ => by
  simp [encode, decode]

theorem RoundTrip.opCXNN (x : Reg) (nn : Byte) : RoundTrip.Statement (.opCXNN x nn) := fun _ => by
  simp [encode, decode]

theorem RoundTrip.opDXYN (x y : Reg) (n : Fin 16) : RoundTrip.Statement (.opDXYN x y n) := fun _ => by
  simp [encode, decode]

theorem RoundTrip.opEX9E (x : Reg) : RoundTrip.Statement (.opEX9E x) := fun _ => by
  simp [encode, decode, decodeFamilyE]

theorem RoundTrip.opEXA1 (x : Reg) : RoundTrip.Statement (.opEXA1 x) := fun _ => by
  simp [encode, decode, decodeFamilyE]

theorem RoundTrip.opFX07 (x : Reg) : RoundTrip.Statement (.opFX07 x) := fun _ => by
  simp [encode, decode, decodeFamilyF]

theorem RoundTrip.opFX0A (x : Reg) : RoundTrip.Statement (.opFX0A x) := fun _ => by
  simp [encode, decode, decodeFamilyF]

theorem RoundTrip.opFX15 (x : Reg) : RoundTrip.Statement (.opFX15 x) := fun _ => by
  simp [encode, decode, decodeFamilyF]

theorem RoundTrip.opFX18 (x : Reg) : RoundTrip.Statement (.opFX18 x) := fun _ => by
  simp [encode, decode, decodeFamilyF]

theorem RoundTrip.opFX1E (x : Reg) : RoundTrip.Statement (.opFX1E x) := fun _ => by
  simp [encode, decode, decodeFamilyF]

theorem RoundTrip.opFX29 (x : Reg) : RoundTrip.Statement (.opFX29 x) := fun _ => by
  simp [encode, decode, decodeFamilyF]

theorem RoundTrip.opFX33 (x : Reg) : RoundTrip.Statement (.opFX33 x) := fun _ => by
  simp [encode, decode, decodeFamilyF]

theorem RoundTrip.opFX55 (x : Reg) : RoundTrip.Statement (.opFX55 x) := fun _ => by
  simp [encode, decode, decodeFamilyF]

theorem RoundTrip.opFX65 (x : Reg) : RoundTrip.Statement (.opFX65 x) := fun _ => by
  simp [encode, decode, decodeFamilyF]

end Sys2Proof.Laws
end

