-- ==== Sys2Proof/Laws/Scheduler.lean ====
section
/-! SUPPORT. The instruction step and the scheduler: the step by phase, what a fetch and a command can do,
what pacing writes, the host's answers, and runs of several steps. -/

namespace Sys2Proof.Machine

/-! ## The step, by phase -/

section
variable {s : State}

theorem step_iterationStart (h : s.phase = .iterationStart) : step s = .next s.beginIteration := by
  unfold step State.schedule; rw [h]

theorem step_draining (h : s.phase = .draining) : step s = .next s.drainStep := by
  unfold step State.schedule; rw [h]

theorem step_deciding (h : s.phase = .deciding) : step s = .next s.decideStep := by
  unfold step State.schedule; rw [h]

theorem step_batch (h : s.phase = .batch) : step s = s.batchStep := by
  unfold step State.schedule; rw [h]

theorem step_pacing (h : s.phase = .pacing) : step s = .next s.paceStep := by
  unfold step State.schedule; rw [h]

theorem step_terminated (h : s.phase = .terminated) : step s = .fault .loopTerminated := by
  unfold step State.schedule; rw [h]

end

/-! ## The instruction step (R120 to R122) -/

/-- A fetch succeeds exactly from a PC of at most 0xFFE, and gives the big-endian word there. -/
theorem State.fetch_eq_ok {s : State} {w : Word} :
    s.fetch = .ok w ↔ s.pc.toNat ≤ 0xFFE ∧
      w = wordOfBytes (s.readByte s.pc.toNat) (s.readByte (s.pc.toNat + 1)) := by
  have hnone := readFault_none s.pc.toNat 2
  unfold State.fetch
  split
  · next h => simp [h] at hnone ⊢; intro; omega
  · next h => simp [h] at hnone ⊢; constructor <;> rintro h' <;> simp_all

/-- What the instruction step can come to: an error taken before the advance, one taken after it, or the
instruction executed on the advanced state. -/
theorem executeInstruction_eq_next {s t : State} (h : executeInstruction s = .next t) :
    (∃ e, t = s.raiseError e) ∨
    (∃ e, s.pc.toNat ≤ 0xFFE ∧ t = s.advance.raiseError e) ∨
    ∃ i w, s.pc.toNat ≤ 0xFFE ∧ s.fetch = .ok w ∧ decode w = .ok i ∧ exec i s.advance = .next t := by
  unfold executeInstruction at h
  split at h
  · cases h; exact .inl ⟨_, rfl⟩
  · next w hw =>
    have hpc := (State.fetch_eq_ok.mp hw).1
    split at h
    · cases h; exact .inr (.inl ⟨_, hpc, rfl⟩)
    · next i hi => exact .inr (.inr ⟨i, w, hpc, hw, hi, h⟩)

/-! ## Commands (R262 to R267) -/

/-- A `LoadRom` asks the host, and fails and only sets the error, or loads at most 3584 bytes. -/
theorem State.loadRom_cases (s : State) (path : String) :
    (∃ e, s.loadRom path = (s.requestRom path).raiseError e) ∨
    (∃ b, s.romReply path = .bytes b ∧ b.length ≤ 3584 ∧ s.loadRom path =
      { (s.requestRom path).writeBytes 0x200 b with
        romName := some path, romSize := some b.length }) := by
  unfold State.loadRom
  cases s.romReply path with
  | ioError e => exact .inl ⟨_, rfl⟩
  | bytes b =>
    by_cases h : maxRomSize < b.length
    · simp only [State.loadReply, if_pos h]; exact .inl ⟨_, rfl⟩
    · simp only [State.loadReply, if_neg h]; exact .inr ⟨b, rfl, Nat.le_of_not_lt h, rfl⟩

/-- What a command can write. -/
theorem State.applyCommand_frame (s : State) (c : Command) :
    let t := s.applyCommand c
    t = { s with mem := t.mem, romName := t.romName, romSize := t.romSize, romRead := t.romRead,
                 running := t.running, stepOnce := t.stepOnce, opcodesPerFrame := t.opcodesPerFrame,
                 keys := t.keys, exitRequested := t.exitRequested, error := t.error } := by
  cases c with
  | loadRom path =>
    show State.loadRom s path = _
    rcases s.loadRom_cases path with ⟨e, h⟩ | ⟨b, -, -, h⟩ <;>
      simp only [State.applyCommand] <;> rw [h] <;> rfl
  | _ => rfl

/-! ## Pacing (R284 to R286) -/

/-- What pacing can write. -/
theorem State.paceStep_frame (s : State) :
    s.paceStep = { s with
      carriedError := s.paceStep.carriedError, sleepOut := s.paceStep.sleepOut
      actualFrameTime := s.paceStep.actualFrameTime
      frameTimeWithSleep := s.paceStep.frameTimeWithSleep, fps := s.paceStep.fps
      currentFrame := s.paceStep.currentFrame, clock := s.clockReading, clockIn := s.clockIn.take
      phase := .iterationStart } := by
  simp only [State.paceStep, State.recordInstrumentation, State.pace]
  split <;> split <;> rfl

/-! ## Host answers (00_scope.md R9) -/

/-- An answer supplied for a path that has none pending is the one its next read takes. -/
theorem State.romReply_supplyRom_self {s : State} {path : String}
    (h : ∀ p ∈ s.romRead.pending, p.1 ≠ path) (r : RomReply) :
    (s.supplyRom path r).romReply path = r := by
  have : s.romRead.pending.find? (·.1 == path) = none := List.find?_eq_none.mpr (by simpa using h)
  simp [State.romReply, State.supplyRom, List.find?_append, this]

/-- An answer supplied for one path leaves the answers for every other. -/
theorem State.romReply_supplyRom_of_ne {s : State} {path other : String} (h : other ≠ path)
    (r : RomReply) : (s.supplyRom path r).romReply other = s.romReply other := by
  have : (path == other) = false := by simpa using h.symm
  simp [State.romReply, State.supplyRom, List.find?_append, this]

/-! ## Timers, keys, time -/

/-- A timer goes down by one, floored at 0 (R283). -/
theorem decTimer_toNat (b : Byte) : (decTimer b).toNat = b.toNat - 1 := by
  unfold decTimer
  split
  · next h => subst h; rfl
  · next h => bv_omega

theorem magnitude_nonneg (q : Duration) : 0 ≤ magnitude q := by
  unfold magnitude; split <;> linarith

/-- A key is pressed when it is down now and was up before (45_input_timers.md R246). -/
theorem mem_pressedKeys (now before : KeyVector) (k : Fin 16) :
    k ∈ pressedKeys now before ↔ now[k.val] = true ∧ before[k.val] = false := by
  simp [pressedKeys]

/-- The pressed keys are listed lowest first. -/
theorem pressedKeys_sorted (now before : KeyVector) :
    (pressedKeys now before).Pairwise (· < ·) :=
  (List.pairwise_lt_finRange 16).filter _

/-! ## Runs -/

theorem steps_zero (s : State) : steps 0 s = .next s := rfl

/-- The first step decides. -/
theorem steps_succ (k : Nat) (s : State) :
    steps (k + 1) s = match step s with
      | .next t => steps k t
      | .fault r => .fault r
      | .refused r => .refused r := by
  unfold steps
  rw [Host.Core.run]
  dsimp only
  cases step s <;> rfl

theorem steps_succ_of_next {s t : State} (k : Nat) (h : step s = .next t) :
    steps (k + 1) s = steps k t := by
  rw [steps_succ, h]

theorem steps_add_of_next {s t : State} (k l : Nat) (h : steps k s = .next t) :
    steps (k + l) s = steps l t := by
  induction k generalizing s with
  | zero => cases h; rw [Nat.zero_add]
  | succ k ih =>
    rw [show k + 1 + l = k + l + 1 by omega, steps_succ]
    rw [steps_succ] at h
    cases hs : step s with
    | next u => rw [hs] at h; exact ih h
    | fault r => rw [hs] at h; cases h
    | refused r => rw [hs] at h; cases h

end Sys2Proof.Machine
end

