-- ==== Sys2Proof/Tests/Slice0.lean ====
section
/-! SUPPORT. Tests of the model, each about one step or one operation, expected values from
spec/95_test_vectors.md (the vector's number stands in the comment) or from the encodings of
spec/30_encoding.md; then a witness for the hypotheses of each obligation that has some.

Asynchronous elaboration is off because a hundred small proofs at once reserve more memory than the
check's limit allows. -/

set_option Elab.async false

namespace Sys2Proof.Tests

open Sys2Proof Sys2Proof.Machine

/-! ## Helpers -/

/-- The reset state with some registers set. -/
def regs (l : List (Reg × Byte)) : State := l.foldl (fun s p => s.setV p.1 p.2) State.reset

/-- The state after the step that runs w, with w at the PC of s. -/
def ran (w : Word) (s : State) : Option State :=
  match step (s.placeOpcode w) with
  | .next t => some t
  | _ => none

/-- The state after one step of s. -/
def stepped (s : State) : Option State :=
  match step s with
  | .next t => some t
  | _ => none

/-- The bytes a to a + n - 1 of memory. -/
def bytes (s : State) (a n : Nat) : List Byte := (List.range n).map (fun k => s.readByte (a + k))

/-- A small grid, so that drawing evaluates quickly: 8 columns, 4 rows. -/
def small : State := State.construct { defaultConfig with fbWidth := 8, fbHeight := 4 }

/-- The on pixels of a framebuffer of the small grid, as (x, y). -/
def lit (fb : Framebuffer) : List (Nat × Nat) :=
  (List.range 4).flatMap (fun y => ((List.range 8).filter (fun x => fb.pixel x y)).map (·, y))

/-- A sprite of two rows, C0 and 80, at I = 0x300. -/
def sprite : State := { small.writeBytes 0x300 [0xC0#8, 0x80#8] with i := 0x300#16 }

/-- The reset state in the drain, with a command queue. -/
def draining (l : List Command) : State := { State.reset with phase := .draining, cmdFifo := l }

/-- All keys up but the given ones. -/
def keysDown (l : List Nat) : KeyVector := Vector.ofFn (fun k : Fin 16 => l.contains k.val)

/-! ## WellFormed (R95) -/

theorem test_wellFormed_refuses_0NNN_of_clear :
    Instr.wellFormed (.op0NNN 0x0E0#12) = false := by decide +kernel
theorem test_wellFormed_refuses_0NNN_of_return :
    Instr.wellFormed (.op0NNN 0x0EE#12) = false := by decide +kernel
theorem test_wellFormed_accepts_0NNN : Instr.wellFormed (.op0NNN 0x0E1#12) = true := by decide +kernel

/-! ## Decoding: every constructor, its word written out from the pattern of R92 and R94 -/

theorem test_decode_family0 :
    decode 0b0000000011100000#16 = .ok (.op00E0) ∧
    decode 0b0000000011101110#16 = .ok (.op00EE) ∧
    decode 0b0000000000000000#16 = .ok (.op0NNN 0x000#12) ∧
    decode 0b0000111111111111#16 = .ok (.op0NNN 0xFFF#12) := by decide +kernel

theorem test_decode_nnn :
    decode 0b0001001000001000#16 = .ok (.op1NNN 0x208#12) ∧
    decode 0b0010101010111100#16 = .ok (.op2NNN 0xABC#12) ∧
    decode 0b1010001100000000#16 = .ok (.opANNN 0x300#12) ∧
    decode 0b1011010100000001#16 = .ok (.opBNNN 0x501#12) := by decide +kernel

theorem test_decode_xnn :
    decode 0b0011011111000001#16 = .ok (.op3XNN 0x7 0xC1#8) ∧
    decode 0b0100000100000010#16 = .ok (.op4XNN 0x1 0x02#8) ∧
    decode 0b0110101001000010#16 = .ok (.op6XNN 0xA 0x42#8) ∧
    decode 0b0111001000000011#16 = .ok (.op7XNN 0x2 0x03#8) ∧
    decode 0b1100001100001111#16 = .ok (.opCXNN 0x3 0x0F#8) := by decide +kernel

theorem test_decode_xy0 :
    decode 0b0101000100100000#16 = .ok (.op5XY0 0x1 0x2) ∧
    decode 0b1001101001010000#16 = .ok (.op9XY0 0xA 0x5) := by decide +kernel

theorem test_decode_family8 :
    decode 0b1000101001010000#16 = .ok (.op8XY0 0xA 0x5) ∧
    decode 0b1000101001010001#16 = .ok (.op8XY1 0xA 0x5) ∧
    decode 0b1000101001010010#16 = .ok (.op8XY2 0xA 0x5) ∧
    decode 0b1000101001010011#16 = .ok (.op8XY3 0xA 0x5) ∧
    decode 0b1000101001010100#16 = .ok (.op8XY4 0xA 0x5) ∧
    decode 0b1000101001010101#16 = .ok (.op8XY5 0xA 0x5) ∧
    decode 0b1000101001010110#16 = .ok (.op8XY6 0xA 0x5) ∧
    decode 0b1000101001010111#16 = .ok (.op8XY7 0xA 0x5) ∧
    decode 0b1000101001011110#16 = .ok (.op8XYE 0xA 0x5) := by decide +kernel

theorem test_decode_draw_and_keys :
    decode 0b1101000100101111#16 = .ok (.opDXYN 0x1 0x2 0xF) ∧
    decode 0b1110001110011110#16 = .ok (.opEX9E 0x3) ∧
    decode 0b1110001110100001#16 = .ok (.opEXA1 0x3) := by decide +kernel

theorem test_decode_familyF :
    decode 0b1111001000000111#16 = .ok (.opFX07 0x2) ∧
    decode 0b1111001000001010#16 = .ok (.opFX0A 0x2) ∧
    decode 0b1111001000010101#16 = .ok (.opFX15 0x2) ∧
    decode 0b1111001000011000#16 = .ok (.opFX18 0x2) ∧
    decode 0b1111001000011110#16 = .ok (.opFX1E 0x2) ∧
    decode 0b1111001000101001#16 = .ok (.opFX29 0x2) ∧
    decode 0b1111001000110011#16 = .ok (.opFX33 0x2) ∧
    decode 0b1111001001010101#16 = .ok (.opFX55 0x2) ∧
    decode 0b1111001001100101#16 = .ok (.opFX65 0x2) := by decide +kernel

/-- FD5 to FD9: illegal words are refused by name, with the word. -/
theorem test_decode_refuses_illegal_words :
    [0x5121#16, 0x9AB3#16, 0x8128#16, 0x812D#16, 0x812F#16, 0xE19F#16, 0xE1A0#16, 0xE100#16, 0xF100#16,
      0xF1FF#16, 0xF108#16, 0xF166#16].all
      (fun op => decode op = .error (.invalidOpcode op)) = true := by decide +kernel

/-- FD1: the first byte of the sequence is the opcode's high byte. -/
theorem test_decodeBytes_is_bigEndian :
    decodeBytes [0x12#8, 0x34#8, 0x56#8] = .ok (.op1NNN 0x234#12, [0x56#8]) := by decide +kernel

theorem test_encode_written_out :
    encode (.op8XYE 0x4 0x0) = 0x840E#16 ∧ encode (.opDXYN 0x0 0x1 0x5) = 0xD015#16 ∧
    encode (.op2NNN 0x204#12) = 0x2204#16 ∧ encode (.opFX0A 0x3) = 0xF30A#16 := by decide +kernel

theorem test_decodeTableWord : decodeTableWord 16 0x00E0 = some .op00E0 ∧
    decodeTableWord 16 0x812F = none := by decide +kernel

theorem test_withFetchWord_runs_first :
    (stepped (State.reset.withFetchWord 16 0x6005)).map (fun t => (t.readV 0, t.pc))
      = some (0x05#8, 0x202#16) := by decide +kernel

/-! ## Fetch and dispatch -/

/-- FD2. -/
theorem test_fetch_at_top_of_memory :
    (ran 0x6007#16 { State.reset with pc := 0xFFE#16 }).map (fun t => (t.readV 0, t.pc))
      = some (0x07#8, 0x1000#16) := by decide +kernel

/-- FD3. -/
theorem test_fetch_fault_leaves_pc :
    (match executeInstruction { State.reset with pc := 0xFFF#16 } with
      | .next t => some (t.error, t.pc)
      | _ => none)
      = some (some (.memoryFault none 0xFFF#16 0x1000 .outOfRange), 0xFFF#16) := by decide +kernel

/-- FD4. -/
theorem test_odd_pc_fetches :
    (ran 0x6105#16 { State.reset with pc := 0x201#16 }).map (fun t => (t.readV 1, t.pc))
      = some (0x05#8, 0x203#16) := by decide +kernel

/-- FD5. -/
theorem test_illegal_word :
    (ran 0x5121#16 State.reset).map (fun t => (t.error, t.pc, t.batchLeft))
      = some (some (.invalidOpcode 0x5121#16 0x200#16), 0x202#16, 0) := by decide +kernel

/-! ## Control flow -/

/-- FD10. -/
theorem test_op0NNN_does_nothing :
    (ran 0x00E1#16 State.reset).map (fun t => (t.pc, t.v, t.error))
      = some (0x202#16, State.reset.v, none) := by decide +kernel

/-- CF7. -/
theorem test_op00EE_pops :
    (ran 0x00EE#16 { State.reset with pc := 0x400#16, callStack := [0x202#16, 0x302#16] }).map
      (fun t => (t.pc, t.callStack))
      = some (0x302#16, [0x202#16]) := by decide +kernel

/-- CF8. -/
theorem test_op00EE_on_empty_stack :
    (ran 0x00EE#16 State.reset).map (fun t => (t.error, t.pc))
      = some (some (.invalidReturn 0x200#16), 0x202#16) := by decide +kernel

/-- CF1. -/
theorem test_op1NNN_jumps :
    (ran 0x1208#16 State.reset).map (fun t => t.pc)
      = some (0x208#16) := by decide +kernel

/-- CF5. -/
theorem test_op2NNN_pushes :
    (ran 0x2400#16 { State.reset with pc := 0x300#16, callStack := [0x202#16] }).map
      (fun t => (t.pc, t.callStack))
      = some (0x400#16, [0x202#16, 0x302#16]) := by decide +kernel

/-- CF6. -/
theorem test_op2NNN_overflows :
    (ran 0x2500#16 { State.reset with
      pc := 0x400#16, callStack := [0x202#16, 0x302#16]
      config := { defaultConfig with stackDepth := some 2 } }).map
      (fun t => (t.error, t.pc, t.callStack))
      = some (some (.stackOverflow 0x400#16), 0x402#16, [0x202#16, 0x302#16]) := by decide +kernel

/-- CF11. -/
theorem test_opBNNN_adds_V0 :
    (ran 0xB501#16 (regs [(0, 0x01#8), (5, 0x77#8)])).map (fun t => t.pc)
      = some (0x502#16) := by decide +kernel

/-- CF10. -/
theorem test_opBNNN_is_not_masked :
    (ran 0xBFFF#16 (regs [(0, 0xFF#8)])).map (fun t => t.pc)
      = some (0x10FE#16) := by decide +kernel

/-- CF12. -/
theorem test_op3XNN_skips :
    (ran 0x3307#16 (regs [(3, 0x07#8)])).map (fun t => t.pc)
      = some (0x204#16) := by decide +kernel

/-- CF12. -/
theorem test_op3XNN_goes_on :
    (ran 0x3308#16 (regs [(3, 0x07#8)])).map (fun t => t.pc)
      = some (0x202#16) := by decide +kernel

/-- CF13. -/
theorem test_op4XNN_goes_on :
    (ran 0x4307#16 (regs [(3, 0x07#8)])).map (fun t => t.pc)
      = some (0x202#16) := by decide +kernel

/-- CF13. -/
theorem test_op4XNN_skips :
    (ran 0x4308#16 (regs [(3, 0x07#8)])).map (fun t => t.pc)
      = some (0x204#16) := by decide +kernel

/-- CF14. -/
theorem test_op5XY0_skips :
    (ran 0x5120#16 (regs [(1, 0x10#8), (2, 0x10#8)])).map (fun t => t.pc)
      = some (0x204#16) := by decide +kernel

/-- CF15. -/
theorem test_op5XY0_goes_on :
    (ran 0x5120#16 (regs [(1, 0x10#8), (2, 0x11#8)])).map (fun t => t.pc)
      = some (0x202#16) := by decide +kernel

/-- CF14. -/
theorem test_op9XY0_goes_on :
    (ran 0x9120#16 (regs [(1, 0x10#8), (2, 0x10#8)])).map (fun t => t.pc)
      = some (0x202#16) := by decide +kernel

/-- CF15. -/
theorem test_op9XY0_skips :
    (ran 0x9120#16 (regs [(1, 0x10#8), (2, 0x11#8)])).map (fun t => t.pc)
      = some (0x204#16) := by decide +kernel

/-! ## ALU -/

/-- A1. -/
theorem test_op6XNN :
    (ran 0x6A42#16 (regs [(15, 0x55#8)])).map (fun t => (t.readV 10, t.readV 15))
      = some (0x42#8, 0x55#8) := by decide +kernel

/-- A3. -/
theorem test_op7XNN_wraps_without_flag :
    (ran 0x7203#16 (regs [(2, 0xFE#8), (15, 0x55#8)])).map (fun t => (t.readV 2, t.readV 15))
      = some (0x01#8, 0x55#8) := by decide +kernel

/-- A5. -/
theorem test_op8XY0 :
    (ran 0x8010#16 (regs [(1, 0x33#8), (15, 0x09#8)])).map (fun t => (t.readV 0, t.readV 15))
      = some (0x33#8, 0x09#8) := by decide +kernel

/-- S5. -/
theorem test_op8XY1 :
    (ran 0x8011#16 (regs [(0, 0x0A#8), (1, 0x05#8), (15, 0x09#8)])).map
      (fun t => (t.readV 0, t.readV 15))
      = some (0x0F#8, 0x00#8) := by decide +kernel

/-- A10. -/
theorem test_op8XY1_into_VF :
    (ran 0x8F11#16 (regs [(15, 0x0F#8), (1, 0xF0#8)])).map (fun t => (t.readV 15, t.readV 15))
      = some (0x00#8, 0x00#8) := by decide +kernel

/-- A7. -/
theorem test_op8XY2 :
    (ran 0x8012#16 (regs [(0, 0xF0#8), (1, 0x3C#8), (15, 0x01#8)])).map
      (fun t => (t.readV 0, t.readV 15))
      = some (0x30#8, 0x00#8) := by decide +kernel

/-- A8. -/
theorem test_op8XY3 :
    (ran 0x8013#16 (regs [(0, 0xFF#8), (1, 0x0F#8), (15, 0x01#8)])).map
      (fun t => (t.readV 0, t.readV 15))
      = some (0xF0#8, 0x00#8) := by decide +kernel

/-- A9. -/
theorem test_op8XY3_with_itself :
    (ran 0x8003#16 (regs [(0, 0x5A#8)])).map (fun t => (t.readV 0, t.readV 15))
      = some (0x00#8, 0x00#8) := by decide +kernel

/-- S3. -/
theorem test_op8XY4_carries :
    (ran 0x8014#16 (regs [(0, 0xFF#8), (1, 0x01#8)])).map (fun t => (t.readV 0, t.readV 15))
      = some (0x00#8, 0x01#8) := by decide +kernel

/-- A15. -/
theorem test_op8XY4_adds_old_VF :
    (ran 0x80F4#16 (regs [(0, 0x10#8), (15, 0x01#8)])).map (fun t => (t.readV 0, t.readV 15))
      = some (0x11#8, 0x00#8) := by decide +kernel

/-- S4. -/
theorem test_op8XY5_borrows :
    (ran 0x8015#16 (regs [(0, 0x01#8), (1, 0x02#8), (15, 0x01#8)])).map
      (fun t => (t.readV 0, t.readV 15))
      = some (0xFF#8, 0x00#8) := by decide +kernel

/-- A16. -/
theorem test_op8XY5_equal :
    (ran 0x8015#16 (regs [(0, 0x05#8), (1, 0x05#8)])).map (fun t => (t.readV 0, t.readV 15))
      = some (0x00#8, 0x01#8) := by decide +kernel

/-- A24. -/
theorem test_op8XY6_ignores_VY :
    (ran 0x8456#16 (regs [(4, 0x04#8), (5, 0xFF#8), (15, 0x01#8)])).map
      (fun t => (t.readV 4, t.readV 15))
      = some (0x02#8, 0x00#8) := by decide +kernel

/-- A26. -/
theorem test_op8XY6_of_VF :
    (ran 0x8F06#16 (regs [(15, 0xFF#8)])).map (fun t => (t.readV 15, t.readV 15))
      = some (0x00#8, 0x00#8) := by decide +kernel

/-- A20. -/
theorem test_op8XY7_borrows :
    (ran 0x8017#16 (regs [(0, 0x02#8), (1, 0x01#8), (15, 0x01#8)])).map
      (fun t => (t.readV 0, t.readV 15))
      = some (0xFF#8, 0x00#8) := by decide +kernel

/-- A21. -/
theorem test_op8XY7 :
    (ran 0x8017#16 (regs [(0, 0x01#8), (1, 0x02#8)])).map (fun t => (t.readV 0, t.readV 15))
      = some (0x01#8, 0x01#8) := by decide +kernel

/-- A27. -/
theorem test_op8XYE :
    (ran 0x840E#16 (regs [(4, 0x81#8)])).map (fun t => (t.readV 4, t.readV 15))
      = some (0x02#8, 0x01#8) := by decide +kernel

/-- A29. -/
theorem test_op8XYE_of_VF :
    (ran 0x8F0E#16 (regs [(15, 0x80#8)])).map (fun t => (t.readV 15, t.readV 15))
      = some (0x02#8, 0x02#8) := by decide +kernel

/-- A31. -/
theorem test_opCXNN_masks_the_draw :
    (ran 0xC30F#16 (State.reset.supplyRand 0xA7#8)).map (fun t => (t.readV 3, t.randIn.taken))
      = some (0x07#8, 1) := by decide +kernel

/-- A32: whatever the draw. -/
theorem test_opCXNN_mask_zero : (ran 0xC300#16 State.reset).map (fun t => t.readV 3) = some 0x00#8 := by
  rw [show ran 0xC300#16 State.reset = some ((State.reset.placeOpcode 0xC300#16).advance.dropRand.setV 3
    (State.reset.rand8 &&& 0x00#8) |> fun t => { t with batchLeft := 0 }) from rfl]
  simp [State.readV, State.setV]

/-! ## Index register and memory -/

/-- M1. -/
theorem test_opANNN :
    (ran 0xA300#16 State.reset).map (fun t => t.i)
      = some (0x0300#16) := by decide +kernel

/-- M2. -/
theorem test_opFX1E_is_not_masked :
    (ran 0xF01E#16 { regs [(0, 0x01#8), (15, 0x55#8)] with i := 0x0FFF#16 }).map
      (fun t => (t.i, t.readV 15, t.error))
      = some (0x1000#16, 0x55#8, none) := by decide +kernel

/-- M3. -/
theorem test_opFX1E_overflows :
    (ran 0xF01E#16 { regs [(0, 0x01#8)] with i := 0xFFFF#16 }).map (fun t => (t.i, t.error))
      = some (0xFFFF#16, some (.iOverflow 0xF01E#16 0x200#16)) := by decide +kernel

/-- M5. -/
theorem test_opFX29 :
    (ran 0xF129#16 (regs [(1, 0x05#8)])).map (fun t => t.i)
      = some (0x0019#16) := by decide +kernel

/-- M7. -/
theorem test_opFX29_above_F :
    (ran 0xF129#16 (regs [(1, 0xFF#8)])).map (fun t => (t.i, t.error))
      = some (0x04FB#16, none) := by decide +kernel

/-- M8. -/
theorem test_opFX33 :
    (ran 0xF033#16 { regs [(0, 0x9C#8)] with i := 0x300#16 }).map (fun t => (bytes t 0x300 3, t.i))
      = some ([0x01#8, 0x05#8, 0x06#8], 0x300#16) := by decide +kernel

/-- M11. -/
theorem test_opFX33_out_of_range :
    (ran 0xF033#16 { regs [(0, 0x07#8)] with i := 0xFFE#16 }).map
      (fun t => (t.error, bytes t 0xFFE 2))
      = some (some (.memoryFault (some 0xF033#16) 0x200#16 0x1000 .outOfRange), [0x00#8, 0x00#8]) := by
  decide +kernel

/-- M13. -/
theorem test_opFX55 :
    (ran 0xF255#16 { regs [(0, 0x01#8), (1, 0x02#8), (2, 0x03#8), (3, 0x04#8)] with i := 0x300#16 }).map
      (fun t => (bytes t 0x300 4, t.i))
      = some ([0x01#8, 0x02#8, 0x03#8, 0x00#8], 0x300#16) := by decide +kernel

/-- M16. -/
theorem test_opFX55_out_of_range :
    (ran 0xFF55#16 { regs [(0, 0x01#8)] with i := 0xFF1#16 }).map
      (fun t => (t.error, t.readByte 0xFF1))
      = some (some (.memoryFault (some 0xFF55#16) 0x200#16 0x1000 .outOfRange), 0x00#8) := by
  decide +kernel

/-- M18. -/
theorem test_opFX65 :
    (ran 0xF465#16 { regs [(5, 0x77#8)] with i := 0x000#16 }).map
      (fun t => (t.v.toList.take 6, t.i))
      = some ([0xF0#8, 0x90#8, 0x90#8, 0x90#8, 0xF0#8, 0x77#8], 0x000#16) := by decide +kernel

/-- M4. -/
theorem test_opFX65_out_of_range :
    (ran 0xF065#16 { regs [(0, 0x21#8)] with i := 0x1000#16 }).map (fun t => (t.error, t.readV 0))
      = some (some (.memoryFault (some 0xF065#16) 0x200#16 0x1000 .outOfRange), 0x21#8) := by
  decide +kernel

/-- M12. -/
theorem test_font_write_fault :
    (ran 0xF033#16 { regs [(0, 0x07#8)] with i := 0x04E#16 }).map
      (fun t => (t.error, bytes t 0x04E 3))
      = some (some (.memoryFault (some 0xF033#16) 0x200#16 0x04E .fontWrite), [0x80#8, 0x80#8, 0x00#8]) := by
  decide +kernel

/-- M12. -/
theorem test_font_write_write :
    (ran 0xF033#16 { regs [(0, 0x07#8)] with i := 0x04E#16, config := { defaultConfig with fontWrite := .write } }).map
      (fun t => (t.error, bytes t 0x04E 3))
      = some (none, [0x00#8, 0x00#8, 0x07#8]) := by decide +kernel

/-! ## Display, on the small grid -/

/-- D1. -/
theorem test_op00E0 :
    (ran 0x00E0#16 { small with fb := List.replicate 4 (List.replicate 8 true) }).map
      (fun t => lit t.fb)
      = some ([]) := by decide +kernel

/-- As D4, on 8 by 4: a sprite C0 80 at (7, 3) lands on (7, 3), (0, 3) and (7, 0). -/
theorem test_opDXYN_wraps_on_both_axes :
    (ran 0xD012#16 (sprite.setV 0 0x07#8 |>.setV 1 0x03#8)).map (fun t => (lit t.fb, t.readV 15))
      = some ([(7, 0), (0, 3), (7, 3)], 0x00#8) := by decide +kernel

/-- D7. -/
theorem test_opDXYN_collides :
    (ran 0xD011#16 { sprite with fb := small.fb.toggle 0 0 }).map (fun t => (lit t.fb, t.readV 15))
      = some ([(1, 0)], 0x01#8) := by decide +kernel

/-- D9. -/
theorem test_opDXYN_reads_VF_before_clearing :
    (ran 0xDF01#16 (sprite.setV 15 0x05#8)).map (fun t => (lit t.fb, t.readV 15))
      = some ([(5, 0), (6, 0)], 0x00#8) := by decide +kernel

/-- On a grid of one pixel two 1 bits land on it: off, on, off, and the second toggle finds it on. -/
theorem test_opDXYN_follows_the_loop_order :
    (ran 0xD011#16 { (State.construct { defaultConfig with fbWidth := 1, fbHeight := 1 }).writeBytes
        0x300 [0xC0#8] with i := 0x300#16 }).map (fun t => (t.fb, t.readV 15))
      = some ([[false]], 0x01#8) := by decide +kernel

/-- D10. -/
theorem test_opDXYN_out_of_range :
    (ran 0xD013#16 { small.setV 15 0x01#8 with i := 0xFFE#16 }).map
      (fun t => (t.error, t.readV 15))
      = some (some (.memoryFault (some 0xD013#16) 0x200#16 0x1000 .outOfRange), 0x01#8) := by
  decide +kernel

/-! ## Keys and timers -/

/-- K1. -/
theorem test_opEX9E_down :
    (ran 0xE09E#16 { regs [(0, 0x05#8)] with keys := keysDown [5] }).map (fun t => t.pc)
      = some (0x204#16) := by decide +kernel

/-- K2. -/
theorem test_opEX9E_up :
    (ran 0xE09E#16 (regs [(0, 0x05#8)])).map (fun t => t.pc)
      = some (0x202#16) := by decide +kernel

/-- K4. -/
theorem test_opEXA1_down :
    (ran 0xE0A1#16 { regs [(0, 0x05#8)] with keys := keysDown [5] }).map (fun t => t.pc)
      = some (0x202#16) := by decide +kernel

/-- K5. -/
theorem test_opEXA1_key_index_fault :
    (ran 0xE0A1#16 (regs [(0, 0x10#8)])).map (fun t => (t.error, t.pc))
      = some (some (.keyIndexFault 0xE0A1#16 0x200#16 0x10#8), 0x202#16) := by decide +kernel

/-- K6. -/
theorem test_opFX07 :
    (ran 0xF307#16 { State.reset with dt := 0x3C#8 }).map (fun t => t.readV 3)
      = some (0x3C#8) := by decide +kernel

/-- K7. -/
theorem test_opFX15 :
    (ran 0xF215#16 (regs [(2, 0x3C#8)])).map (fun t => (t.dt, t.st))
      = some (0x3C#8, 0x00#8) := by decide +kernel

/-- K8. -/
theorem test_opFX18 :
    (ran 0xF218#16 (regs [(2, 0x10#8)])).map (fun t => (t.dt, t.st))
      = some (0x00#8, 0x10#8) := by decide +kernel

/-- K10, in a batch of 3 instructions. -/
theorem test_opFX0A_enters_the_wait :
    (ran 0xF30A#16 { State.reset with batchLeft := 3 }).map (fun t => (t.wait, t.pc, t.phase))
      = some (some ⟨3, keysDown [], 2⟩, 0x202#16, .pacing) := by decide +kernel

/-! ## Scheduler, commands, snapshot -/

/-- The engine about to poll a wait of register 3. -/
def waiting (before now : List Nat) : State :=
  { State.reset with phase := .deciding, wait := some ⟨3, keysDown before, 2⟩, keys := keysDown now }

/-- K11. -/
theorem test_poll_takes_lowest_key :
    (stepped (waiting [] [7, 2])).map (fun t => (t.readV 3, t.wait, t.phase, t.batchLeft))
      = some (0x02#8, none, .batch, 2) := by decide +kernel

/-- K12. -/
theorem test_poll_ignores_held_key :
    (stepped (waiting [4] [4])).map (fun t => (t.readV 3, t.wait, t.phase, t.snapshot.waitPending))
      = some (0x00#8, some ⟨3, keysDown [4], 2⟩, .pacing, true) := by decide +kernel

/-- K13. -/
theorem test_exit_ends_a_wait :
    (stepped { waiting [] [7] with exitRequested := true }).map (fun t => (t.readV 3, t.phase))
      = some (0x00#8, .terminated) := by decide +kernel

/-- K9 and CP3: the snapshot shows the frame count before its increment. -/
theorem test_end_of_frame :
    (stepped { State.reset with phase := .batch, dt := 2#8, st := 0#8, stepOnce := true }).map
      (fun t => (t.dt, t.st, t.currentFrame, t.stepOnce, t.snapshot.machine.dt, t.snapshot.machine.currentFrame))
      = some (1#8, 0#8, 1, false, 1#8, 0) := by decide +kernel

/-- CP2. -/
theorem test_setRunning :
    (stepped (draining [.setRunning true, .exit])).map
      (fun t => (t.running, t.cmdFifo, t.applied, t.exitRequested))
      = some (true, [.exit], 1, false) := by decide +kernel

/-- CP11. -/
theorem test_setKeysDown_replaces_the_latch :
    (stepped { draining [.setKeysDown (keysDown [1])] with
      keys := keysDown [2] }).map (fun t => t.keys)
      = some (keysDown [1]) := by decide +kernel

/-- CP4. -/
theorem test_setOpcodesPerFrame_zero :
    (stepped (draining [.setOpcodesPerFrame 0#32])).map (fun t => t.opcodesPerFrame)
      = some (0#32) := by decide +kernel

/-- CP10. -/
theorem test_loadRom :
    (stepped { (draining [.loadRom "p"]).supplyRom "p" (.bytes [0x60#8, 0x05#8]) with
      pc := 0x300#16 }).map (fun t => (bytes t 0x1FF 4, t.romName, t.romSize, t.pc))
      = some ([0x00#8, 0x60#8, 0x05#8, 0x00#8], some "p", some 2, 0x300#16) := by decide +kernel

/-- CP7. -/
theorem test_loadRom_io_error :
    (stepped ((draining [.loadRom "p"]).supplyRom "p" (.ioError "e"))).map
      (fun t => (t.error, t.romName, t.mem))
      = some (some (.invalidRom "p" "e"), none, []) := by decide +kernel

/-- R9, R264; the answer for another path stays. -/
theorem test_loadRom_puts_the_path_out :
    (stepped { draining [.loadRom "p"] with
      romRead := ⟨⟨[("q", .ioError "e"), ("p", .bytes [])], 0⟩, none⟩ }).map
      (fun t => (t.romRead, t.romName, t.error))
      = some (⟨⟨[("q", .ioError "e")], 1⟩, some "p"⟩, some "p", none) := by decide +kernel

/-- CP8. -/
theorem test_loadRom_first_error_wins :
    (stepped { (draining [.loadRom "p"]).supplyRom "p" (.bytes (List.replicate 4000 0#8)) with
      error := some (.invalidReturn 0x200#16) }).map (fun t => (t.error, t.romSize))
      = some (some (.invalidReturn 0x200#16), none) := by decide +kernel

/-- CP6. -/
theorem test_loadRom_too_large :
    (stepped ((draining [.loadRom "p"]).supplyRom "p" (.bytes (List.replicate 3585 0#8)))).map
      (fun t => (t.error, t.romSize))
      = some (some (.romTooLarge "p" 3585 3584), none) := by decide +kernel

/-- CP12: the drain is over, two commands were applied. -/
theorem test_drain_publishes :
    (stepped { State.reset with phase := .draining, applied := 2, running := true }).map
      (fun t => (t.phase, t.snapshot.machine.running))
      = some (.deciding, true) := by decide +kernel

/-- CP12. -/
theorem test_exit_before_batch :
    (stepped { State.reset with phase := .deciding, running := true, exitRequested := true }).map
      (fun t => t.phase)
      = some (.terminated) := by decide +kernel

/-- CP13. -/
theorem test_error_stops_execution :
    (stepped { State.reset with phase := .deciding, running := true, error := some (.invalidReturn 0x200#16) }).map
      (fun t => (t.phase, t.running))
      = some (.pacing, true) := by decide +kernel

/-- T1. -/
theorem test_pacing_oversleep :
    (stepped { State.reset with
      phase := .pacing, running := true, carriedError := 0
      clockIn := ⟨[5], 0⟩, sleepOut := ⟨⟨[12], 0⟩, none⟩ }).map
      (fun t => (t.carriedError, t.sleepOut.request))
      = some (-1 / 3, some (35 / 3)) := by decide +kernel

/-- T3: no sleep is requested. -/
theorem test_pacing_late :
    (stepped { State.reset with
      phase := .pacing, running := true, carriedError := 0
      clockIn := ⟨[20], 0⟩, sleepOut := ⟨⟨[7], 0⟩, none⟩ }).map
      (fun t => (t.carriedError, t.sleepOut.taken, t.sleepOut.request, t.frameTimeWithSleep))
      = some (0, 0, none, 20) := by decide +kernel

/-- T4. -/
theorem test_pacing_budget_zero :
    (stepped { State.reset with
      phase := .pacing, running := true, carriedError := 0
      clockIn := ⟨[50 / 3], 0⟩, sleepOut := ⟨⟨[1 / 10], 0⟩, none⟩ }).map
      (fun t => t.carriedError)
      = some (-1 / 10) := by decide +kernel

/-- T5. -/
theorem test_instrumentation :
    (stepped { State.reset with
      phase := .pacing, running := true, carriedError := 0
      clockIn := ⟨[5], 0⟩, sleepOut := ⟨⟨[35 / 3], 0⟩, none⟩ }).map
      (fun t => (t.actualFrameTime, t.frameTimeWithSleep, t.fps))
      = some (5, 50 / 3, 60) := by decide +kernel

/-- T6 and D25. -/
theorem test_instrumentation_zeroed :
    (stepped { State.reset with phase := .pacing, currentFrame := 1, fps := 60, clockIn := ⟨[5], 0⟩ }).map
      (fun t => (t.fps, t.currentFrame))
      = some (0, 0) := by decide +kernel

/-- CP1. -/
theorem test_construction_publishes :
    State.reset.snapshot = ⟨State.reset.toMachineState, false⟩ ∧ State.reset.schedulerState = .idle :=
  ⟨rfl, rfl⟩

/-- R330. -/
theorem test_causeCodes : causeCode none = 0 ∧ causeCode (some (.invalidOpcode 0#16 0#16)) = 1 ∧
    causeCode (some (.memoryFault none 0#16 0 .outOfRange)) = 5 ∧
    causeCode (some (.keyIndexFault 0#16 0#16 0#8)) = 8 := by decide +kernel

/-! ## Witnesses: states and operands that meet the hypotheses of each obligation together, at the
boundary values of each clause -/

/-- The engine inside a batch, w being the next word. -/
def ready (w : Word) : State := State.reset.placeOpcode w

theorem witness_DecodeOfEncodeIsIdentity : Instr.wellFormed (.op0NNN 0x0EF#12) = true := by decide +kernel

theorem witness_EncodeOfDecodeIsIdentity : decode 0x8FF6#16 = .ok (.op8XY6 0xF 0xF) := by decide +kernel

theorem witness_FamilyZeroIsClearReturnOrNoOp :
    fieldFamily 0x00EF#16 = 0x0 ∧ 0x00EF#16 ≠ 0x00E0#16 ∧ 0x00EF#16 ≠ 0x00EE#16 := by decide +kernel

theorem witness_FirstInstructionIsTheWordAtEntryPoint :
    (Command.setRunning true = .setRunning true ∨ Command.setRunning true = .stepFrame) ∧
    (Command.stepFrame = .setRunning true ∨ Command.stepFrame = .stepFrame) := by decide +kernel

theorem witness_ConstructionLeavesResetValues : 79 < 80 ∧ 0x050 ≤ 0x050 ∧ 0x050 ≤ 0xFFF := by decide +kernel

theorem witness_FetchBeyondMemoryFaults :
    0xFFE < ({ ready 0x0000#16 with pc := 0xFFF#16 } : State).pc.toNat ∧
    ({ ready 0x0000#16 with pc := 0xFFF#16 } : State).phase = .batch ∧
    ({ ready 0x0000#16 with pc := 0xFFF#16 } : State).batchLeft ≠ 0 ∧
    ({ ready 0x0000#16 with pc := 0xFFF#16 } : State).enabled = true := by decide +kernel

/-- PC = 0xFFE, the last place a word can be fetched from. -/
def readyAtTop (w : Word) : State := ({ State.reset with pc := 0xFFE#16 } : State).placeOpcode w

theorem witness_StepRunsTheDecodedInstruction :
    (readyAtTop 0x6007#16).phase = .batch ∧ (readyAtTop 0x6007#16).batchLeft = 0 + 1 ∧
    (readyAtTop 0x6007#16).enabled = true ∧ (readyAtTop 0x6007#16).pc.toNat ≤ 0xFFE ∧
    decode (wordOfBytes ((readyAtTop 0x6007#16).readByte (readyAtTop 0x6007#16).pc.toNat)
      ((readyAtTop 0x6007#16).readByte ((readyAtTop 0x6007#16).pc.toNat + 1))) = .ok (.op6XNN 0 0x07#8) := by
  decide +kernel

/-- An instruction that ends well, one that raises, one that waits: the three clauses. -/
theorem witness_StepRunsTheDecodedInstruction_clauses :
    (∃ t, exec (.op6XNN 0 0x07#8) (ready 0x6007#16) = .next t ∧ t.error = none ∧ t.wait = none) ∧
    (∃ t, exec .op00EE (ready 0x00EE#16) = .next t ∧ t.error ≠ none) ∧
    (∃ t, exec (.opFX0A 3) (ready 0xF30A#16) = .next t ∧ t.error = none ∧ t.wait ≠ none) :=
  ⟨⟨_, rfl, by decide +kernel, by decide +kernel⟩, ⟨_, rfl, by decide +kernel⟩, ⟨_, rfl, by decide +kernel, by decide +kernel⟩⟩

theorem witness_StepOnIllegalWordRaisesInvalidOpcode :
    (readyAtTop 0x5121#16).phase = .batch ∧ (readyAtTop 0x5121#16).batchLeft ≠ 0 ∧
    (readyAtTop 0x5121#16).enabled = true ∧ (readyAtTop 0x5121#16).pc.toNat ≤ 0xFFE ∧
    0x5121#16 = wordOfBytes ((readyAtTop 0x5121#16).readByte (readyAtTop 0x5121#16).pc.toNat)
      ((readyAtTop 0x5121#16).readByte ((readyAtTop 0x5121#16).pc.toNat + 1)) ∧
    decode 0x5121#16 = .error (.invalidOpcode 0x5121#16) := by decide +kernel

theorem witness_StepOutsideEnabledBatchIsRefused :
    ({ ready 0x6007#16 with exitRequested := true } : State).phase = .batch ∧
    ({ ready 0x6007#16 with exitRequested := true } : State).batchLeft ≠ 0 ∧
    ({ ready 0x6007#16 with exitRequested := true } : State).enabled = false := by decide +kernel

theorem witness_ReturnPopsTheCallStack :
    ({ State.reset with callStack := [0x202#16] } : State).callStack = [] ++ [0x202#16] ∧
    State.reset.callStack = [] ∧ State.reset.error = none := by decide +kernel

/-- A call below, and one at, a depth of 1; and one on the unbounded stack. -/
theorem witness_CallPushesTheAdvancedPc :
    (∀ n, ({ State.reset with config := { defaultConfig with stackDepth := some 1 } } : State).config.stackDepth
      = some n → State.reset.callStack.length ≠ n) ∧
    (∀ n, State.reset.config.stackDepth = some n → State.reset.callStack.length ≠ n) ∧
    ({ State.reset with callStack := [0x202#16], config := { defaultConfig with stackDepth := some 1 } } :
      State).config.stackDepth = some 1 := by
  refine ⟨fun n h => ?_, fun n h => ?_, rfl⟩
  · cases h; decide +kernel
  · cases h

theorem witness_other_registers : (1 : Reg) ≠ 0 ∧ (1 : Reg) ≠ 15 ∧ (0 : Reg) ≠ 15 := by decide +kernel

/-- The last sum that is stored, the first that overflows, under both parameter values. -/
theorem witness_IndexArithmetic :
    0xFFFE + (0x01#8).toNat ≤ 0xFFFF ∧ 0xFFFF < 0xFFFF + (0x01#8).toNat ∧
    State.reset.config.iOverflow = .fault ∧
    ({ State.reset with config := { defaultConfig with iOverflow := .wrap } } : State).config.iOverflow
      = .wrap := by decide +kernel

/-- I at the end of memory, and at the first byte after the font. -/
theorem witness_BcdStoresThreeDigits :
    Memory.wf State.reset.config.font State.reset.mem ∧
    ({ State.reset with i := 0x050#16 } : State).addressI 2 ≤ 0xFFF ∧
    (State.reset.config.fontWrite = .fault →
      0x04F < ({ State.reset with i := 0x050#16 } : State).addressI 0) ∧
    ({ State.reset with i := 0xFFD#16 } : State).addressI 2 ≤ 0xFFF ∧
    (State.reset.config.fontWrite = .fault →
      0x04F < ({ State.reset with i := 0xFFD#16 } : State).addressI 0) := by decide +kernel

theorem witness_StoreRegistersAtI :
    Memory.wf State.reset.config.font State.reset.mem ∧
    ({ State.reset with i := 0x050#16 } : State).addressI (15 : Reg).val ≤ 0xFFF ∧
    (State.reset.config.fontWrite = .fault →
      0x04F < ({ State.reset with i := 0x050#16 } : State).addressI 0) ∧
    ({ State.reset with i := 0xFF0#16 } : State).addressI (15 : Reg).val ≤ 0xFFF ∧
    (State.reset.config.fontWrite = .fault →
      0x04F < ({ State.reset with i := 0xFF0#16 } : State).addressI 0) := by decide +kernel

theorem witness_LoadRegistersFromI :
    ({ State.reset with i := 0xFF0#16 } : State).addressI (15 : Reg).val ≤ 0xFFF := by decide +kernel

/-- The first I at which each form goes out of range, and the last at which a store hits the font. -/
theorem witness_OutOfRangeAccessesRaiseMemoryFault :
    0xFFF < ({ State.reset with i := 0xFFE#16 } : State).addressI 2 ∧
    0xFFF < ({ State.reset with i := 0xFF1#16 } : State).addressI (15 : Reg).val ∧
    0xFFF < ({ State.reset with i := 0x1000#16 } : State).addressI (0 : Reg).val ∧
    0x1000 < ({ State.reset with i := 0xFF2#16 } : State).addressI (15 : Fin 16).val ∧
    State.reset.config.fontWrite = .fault ∧
    ({ State.reset with i := 0x04F#16 } : State).addressI 0 ≤ 0x04F := by decide +kernel

/-- The grid of the defaults, and a sprite that ends at the end of memory. -/
theorem witness_DrawXorsSpriteAndReportsCollision :
    GridInv State.reset ∧ ({ State.reset with i := 0xFF1#16 } : State).addressI (15 : Fin 16).val ≤ 0x1000 ∧
    8 ≤ State.reset.config.fbWidth ∧ (15 : Fin 16).val ≤ State.reset.config.fbHeight := by
  unfold GridInv; decide +kernel

/-- A grid narrower and lower than a sprite. -/
theorem witness_DrawFollowsTheLoopOrderOnEveryGrid :
    GridInv (State.construct { defaultConfig with fbWidth := 3, fbHeight := 2 }) ∧
    (State.construct { defaultConfig with fbWidth := 3, fbHeight := 2 }).addressI (5 : Fin 16).val
      ≤ 0x1000 ∧
    0 < (State.construct { defaultConfig with fbWidth := 3, fbHeight := 2 }).config.fbWidth ∧
    0 < (State.construct { defaultConfig with fbWidth := 3, fbHeight := 2 }).config.fbHeight := by
  unfold GridInv; decide +kernel

/-- Glyph 0 of the font has a 1 bit and is in memory at reset; the byte at 0x300 has none. -/
theorem witness_DrawingTwiceRestoresTheFramebuffer :
    GridInv State.reset ∧ (0 : Reg) ≠ 15 ∧ State.reset.addressI (5 : Fin 16).val ≤ 0x1000 ∧
    (∀ px py, State.reset.fb.pixel px py = false) ∧
    (∃ r c, r < (5 : Fin 16).val ∧ c < 8 ∧
      (State.reset.readByte (State.reset.addressI r)).getLsbD (7 - c) = true) ∧
    (∀ r, r < (1 : Fin 16).val →
      ({ State.reset with i := 0x300#16 } : State).readByte
        (({ State.reset with i := 0x300#16 } : State).addressI r) = 0#8) := by
  refine ⟨by unfold GridInv; decide +kernel, by decide +kernel, by decide +kernel, fun px py => ?_, ⟨0, 0, by decide +kernel⟩, by decide +kernel⟩
  exact Framebuffer.pixel_blank 64 32 px py

/-- The last key, and the first value that names none. -/
theorem witness_KeySkipsTestTheLatch :
    ((regs [(0, 0x0F#8)]).readV 0).toNat = (15 : Fin 16).val ∧ 0xF < ((regs [(0, 0x10#8)]).readV 0).toNat := by
  decide +kernel

theorem witness_KeyWaitIsEnteredInsideABatch :
    (ready 0xF30A#16).phase = .batch ∧ (ready 0xF30A#16).batchLeft = 0 + 1 ∧
    (ready 0xF30A#16).enabled = true ∧ (ready 0xF30A#16).pc.toNat ≤ 0xFFE ∧
    wordOfBytes ((ready 0xF30A#16).readByte (ready 0xF30A#16).pc.toNat)
      ((ready 0xF30A#16).readByte ((ready 0xF30A#16).pc.toNat + 1)) = encode (.opFX0A 3) := by decide +kernel

theorem witness_PollCompletesOnLowestPressedKey :
    (waiting [] [15]).phase = .deciding ∧ (waiting [] [15]).exitRequested = false ∧
    (waiting [] [15]).error = none ∧ (waiting [] [15]).wait = some ⟨3, keysDown [], 2⟩ ∧
    (waiting [] [15]).keyDown 15 = true ∧ (keysDown [])[15] = false ∧
    (∀ j : Fin 16, j < 15 → ¬ ((waiting [] [15]).keyDown j = true ∧ (keysDown [])[j.val] = false)) ∧
    (∀ k : Fin 16, ¬ ((waiting [4] [4]).keyDown k = true ∧ (keysDown [4])[k.val] = false)) := by decide +kernel

theorem witness_KeyWaitHoldsRegistersTimersAndFrameCount :
    ∃ t, SchedulerInv (waiting [4] [4]) ∧ (waiting [4] [4]).wait.isSome = true ∧
      step (waiting [4] [4]) = .next t ∧ t.wait.isSome = true :=
  ⟨_, ⟨by decide +kernel, by decide +kernel, by decide +kernel⟩, rfl, rfl, rfl⟩

theorem witness_DrainAppliesTheOldestCommand :
    (draining [.exit]).phase = .draining ∧
    (draining [.exit]).cmdFifo = .exit :: [] := by decide +kernel

/-- The largest ROM that loads, and the smallest that does not. -/
theorem witness_LoadRomStoresTheBytes :
    Memory.wf State.reset.config.font State.reset.mem ∧
    (State.reset.supplyRom "p" (.bytes (List.replicate 3584 0xAA#8))).romReply "p"
      = .bytes (List.replicate 3584 0xAA#8) ∧
    (List.replicate 3584 0xAA#8).length ≤ 3584 :=
  ⟨by decide +kernel, rfl, by rw [List.length_replicate]⟩

theorem witness_FailedLoadRomOnlySetsTheError :
    (State.reset.supplyRom "p" (.ioError "e")).romReply "p" = .ioError "e" ∧
    (State.reset.supplyRom "p" (.bytes (List.replicate 3585 0xAA#8))).romReply "p"
      = .bytes (List.replicate 3585 0xAA#8) ∧
    3584 < (List.replicate 3585 0xAA#8).length :=
  ⟨rfl, rfl, by rw [List.length_replicate]; decide +kernel⟩

theorem witness_DrainAppliesAllInOrderThenPublishes :
    (draining []).phase = .draining ∧
    0 < (draining [.exit]).applied
      + (draining [.exit]).cmdFifo.length ∧
    State.reset.applied + State.reset.cmdFifo.length = 0 := by decide +kernel

/-- One place left in a FIFO of one, none left, and an unbounded one; empty ports, and one with an answer for
another path; a terminated loop. -/
theorem witness_EnvironmentActionsChangeOnlyWhatTheyName :
    (∀ n, (State.construct { defaultConfig with cmdFifoDepth := some 1 }).config.cmdFifoDepth = some n →
      (State.construct { defaultConfig with cmdFifoDepth := some 1 }).cmdFifo.length < n) ∧
    (∀ n, State.reset.config.cmdFifoDepth = some n → State.reset.cmdFifo.length < n) ∧
    (({ State.construct { defaultConfig with cmdFifoDepth := some 1 } with cmdFifo := [.exit] } :
      State).config.cmdFifoDepth = some 1 ∧ 1 ≤ [Command.exit].length) ∧
    (State.reset.randIn.pending = [] ∧ State.reset.clockIn.pending = [] ∧
      State.reset.sleepOut.pending = [] ∧ (0 : Duration) ≤ 0) ∧
    ((∀ p ∈ (State.reset.supplyRom "p" (.ioError "e")).romRead.pending, p.1 ≠ "q") ∧ "p" ≠ "q") ∧
    ({ State.reset with phase := .terminated } : State).phase = .terminated ∧
    State.reset.phase ≠ .terminated := by
  refine ⟨fun n h => ?_, fun n h => ?_, by decide +kernel, ⟨rfl, rfl, rfl, le_refl _⟩,
    ⟨by decide +kernel, by decide +kernel⟩, rfl, by decide +kernel⟩
  · cases h; decide +kernel
  · cases h

/-- One state for each clause. -/
theorem witness_TerminalCheckThenChoiceOfStep3 :
    (waiting [] []).phase = .deciding ∧
    ({ waiting [] [] with exitRequested := true } : State).exitRequested = true ∧
    (waiting [] []).exitRequested = false ∧
    ({ waiting [] [] with error := some (.invalidReturn 0#16) } : State).error ≠ none ∧
    (waiting [] []).error = none ∧ ({ waiting [] [] with wait := none } : State).wait = none ∧
    ({ State.reset with running := true } : State).running = true ∧ State.reset.running = false ∧
    State.reset.stepOnce = false ∧ ({ State.reset with phase := .terminated } : State).phase = .terminated := by
  decide +kernel

theorem witness_EndOfFrameDecrementsPublishesCounts :
    ({ State.reset with phase := .batch } : State).phase = .batch ∧
    ({ State.reset with phase := .batch } : State).batchLeft = 0 := by decide +kernel

/-- The engine at pacing after d ms of its iteration. -/
def pacingAfter (d : Duration) : State :=
  { State.reset with phase := .pacing, running := true, clockIn := ⟨[d], 0⟩ }

/-- The start of an iteration; a budget below 0, and one of 0; both branches of the instrumentation. -/
theorem witness_IterationReadsTheClockAndPacingCompensatesDrift :
    State.reset.phase = .iterationStart ∧
    ((pacingAfter 17).phase = .pacing ∧ 1000 / 60 - ((pacingAfter 17).clockReading
      - (pacingAfter 17).frameStart) + (pacingAfter 17).carriedError < 0) ∧
    ((pacingAfter (50 / 3)).phase = .pacing ∧ 0 ≤ 1000 / 60 - ((pacingAfter (50 / 3)).clockReading
      - (pacingAfter (50 / 3)).frameStart) + (pacingAfter (50 / 3)).carriedError) ∧
    ((pacingAfter 17).running = true ∧ (pacingAfter 17).error = none) ∧ State.reset.running = false ∧
    ({ pacingAfter 17 with error := some (.invalidReturn 0#16) } : State).error ≠ none := by
  decide +kernel

theorem witness_BatchEndsWithinItsCount :
    SchedulerInv (ready 0x1200#16) ∧ (ready 0x1200#16).phase = .batch :=
  ⟨⟨by decide +kernel, by decide +kernel, by decide +kernel⟩, rfl⟩

/-- The two reasons for an idle iteration. -/
theorem witness_IdleIterationChangesOnlyTimesAndInstrumentation :
    State.reset.phase = .iterationStart ∧ State.reset.cmdFifo = [] ∧ State.reset.exitRequested = false ∧
    (State.reset.wait = none ∧ State.reset.running = false ∧ State.reset.stepOnce = false) ∧
    ({ State.reset with error := some (.invalidReturn 0#16), running := true } : State).error ≠ none := by
  decide +kernel

theorem witness_ExitTerminatesWithinOneIteration :
    SchedulerInv { ready 0x1200#16 with cmdFifo := [.stepFrame, .exit] } ∧
    (ready 0x1200#16).phase ≠ .terminated ∧
    Command.exit ∈ ({ ready 0x1200#16 with cmdFifo := [.stepFrame, .exit] } : State).cmdFifo :=
  ⟨⟨by decide +kernel, by decide +kernel, by decide +kernel⟩, by decide +kernel, by decide +kernel⟩

theorem witness_SnapshotChangesOnlyAtPublishPoints :
    ∃ t, step { State.reset with phase := .draining, applied := 1, running := true } = .next t ∧
      t.snapshot.machine.running = true := ⟨_, rfl, rfl⟩

theorem witness_BehaviourDoesNotDependOnTime :
    ({ State.reset with carriedError := 1, clock := 5 } : State).forgetTime = State.reset.forgetTime ∧
    ({ State.reset with carriedError := 1, clock := 5 } : State).clock ≠ State.reset.clock :=
  ⟨rfl, by decide +kernel⟩

theorem witness_InstructionErrorsArePrecise :
    ∃ t e, State.reset.error = none ∧ exec .op00EE State.reset = .next t ∧ t.error = some e :=
  ⟨_, _, rfl, rfl, rfl⟩

theorem witness_ErrorIsTerminal :
    ∃ t, SchedulerInv { State.reset with error := some (.invalidReturn 0#16), phase := .deciding } ∧
      step { State.reset with error := some (.invalidReturn 0#16), phase := .deciding } = .next t :=
  ⟨_, ⟨by decide +kernel, by decide +kernel, by decide +kernel⟩, rfl⟩

theorem witness_OnlyTheNamedInstructionsWriteVF :
    ∃ t, exec (.op6XNN 15 0x01#8) State.reset = .next t ∧ t.readV 15 ≠ State.reset.readV 15 :=
  ⟨_, rfl, by decide +kernel⟩

/-- For each element a state that one of its writers changes. -/
theorem witness_OnlyTheNamedInstructionsWriteEachElement :
    (∃ t, exec (.opANNN 0x300#12) State.reset = .next t ∧ t.i ≠ State.reset.i) ∧
    (∃ t, exec (.op2NNN 0x300#12) State.reset = .next t ∧ t.pc ≠ State.reset.pc ∧
      t.callStack ≠ State.reset.callStack) ∧
    (∃ t, exec (.opFX15 0) (regs [(0, 1#8)]) = .next t ∧ t.dt ≠ (regs [(0, 1#8)]).dt) ∧
    (∃ t, exec (.opFX18 0) (regs [(0, 1#8)]) = .next t ∧ t.st ≠ (regs [(0, 1#8)]).st) ∧
    (∃ t, exec (.op00E0) { small with fb := [] } = .next t ∧ t.fb ≠ []) ∧
    (∃ t, exec (.opFX55 0) { regs [(0, 1#8)] with i := 0x300#16 } = .next t ∧ t.mem ≠ []) ∧
    (∃ t, exec (.opFX0A 0) State.reset = .next t ∧ t.wait ≠ State.reset.wait) ∧
    (∃ t, exec (.opCXNN 0 0#8) State.reset = .next t ∧ t.randIn ≠ State.reset.randIn) ∧
    (∃ t, exec (.op6XNN 0 1#8) State.reset = .next t ∧ t.readV 0 ≠ State.reset.readV 0) ∧
    (∃ t, exec (.op00EE) State.reset = .next t ∧ t.error ≠ State.reset.error) := by
  refine ⟨⟨_, rfl, by decide +kernel⟩, ⟨_, rfl, by decide +kernel, by decide +kernel⟩, ⟨_, rfl, by decide +kernel⟩, ⟨_, rfl, by decide +kernel⟩,
    ⟨_, rfl, by decide +kernel⟩, ⟨_, rfl, by decide +kernel⟩, ⟨_, rfl, by decide +kernel⟩, ⟨_, rfl, by decide +kernel⟩,
    ⟨_, rfl, by decide +kernel⟩, ⟨_, rfl, by decide +kernel⟩⟩

theorem witness_NoInstructionReachesTheControlPlane :
    ∃ t, exec (.op1NNN 0x300#12) State.reset = .next t := ⟨_, rfl⟩

theorem witness_StepKeepsTheParameters : ∃ t, step State.reset = .next t := ⟨_, rfl⟩

/-- A step from reset, whose state meets the invariant's parts. -/
theorem witness_StepKeepsTheInvariant :
    ∃ t, Inv State.reset ∧ step State.reset = .next t := by
  refine ⟨_, ⟨⟨by decide +kernel, by decide +kernel, by decide +kernel⟩, by unfold GridInv; decide +kernel, ⟨by decide +kernel, fun _ h => nomatch h⟩, ?_,
    ⟨by decide +kernel, by decide +kernel, by decide +kernel⟩, ⟨fun _ _ => rfl, fun _ _ => rfl⟩, ⟨rfl, ?_⟩⟩, rfl⟩
  · intro n h; cases h
  · intro n h; cases h

theorem witness_ReachableStatesAreSafe : Reachable State.reset := .construct _

end Sys2Proof.Tests
end

/-! ## What an instruction can write

`InstrFrame s t` is the frame every instruction shares: t differs from s at most in memory, the registers,
the call stack, the timers, the framebuffer, the error register, the key wait and `rand_in`. -/

namespace Sys2Proof.Machine

/-- t is s but for the fields that instructions write. -/
def InstrFrame (s t : State) : Prop :=
  t = { s with mem := t.mem, v := t.v, i := t.i, pc := t.pc, callStack := t.callStack, dt := t.dt,
               st := t.st, fb := t.fb, error := t.error, wait := t.wait, randIn := t.randIn }

section
variable {s t u : State}

theorem InstrFrame.config_eq (h : InstrFrame s t) : t.config = s.config :=
  (congrArg State.config h :)

theorem InstrFrame.raiseError (s : State) (e : EngineError) : InstrFrame s (s.raiseError e) := rfl

theorem InstrFrame.skipIf (s : State) (c : Bool) : InstrFrame s (s.skipIf c) := by
  rw [State.skipIf_eq]; rfl

/-- An instruction that ends by `finish` keeps the frame if the state it computes does: its error is
taken in the state it was entered with. -/
theorem InstrFrame.of_finish {r : Except EngineError State} (hr : ∀ u, r = .ok u → InstrFrame s u)
    (h : finish s r = .next t) : InstrFrame s t := by
  rcases finish_eq_next h with hok | ⟨e, -, rfl⟩
  · exact hr t hok
  · exact .raiseError s e

/-- A checked access keeps the frame if the state it leads to does. -/
theorem InstrFrame.of_finish_access {i : Instr} {f : Option (Nat × FaultKind)} (hu : InstrFrame s u)
    (h : finish s (s.access i f u) = .next t) : InstrFrame s t := by
  rcases finish_access_eq_next h with ⟨-, rfl⟩ | ⟨a, k, -, rfl⟩
  · exact hu
  · exact .raiseError s _

/-- Everything the addition to I can do when it takes no error (R201). -/
theorem State.addToI_eq_ok {x : Reg} (h : s.addToI x = .ok t) :
    ¬(0xFFFF < s.i.toNat + (s.readV x).toNat ∧ s.config.iOverflow = .fault) ∧
      t = s.setI (BitVec.ofNat 16 (s.i.toNat + (s.readV x).toNat)) := by
  simp only [State.addToI] at h
  split at h
  · cases h
  · next hroom => exact ⟨hroom, by injection h with h; exact h.symm⟩

/-- Everything a key skip can do when it takes no error (R240, R241). -/
theorem State.skipIfKey_eq_ok {i : Instr} {x : Reg} {wanted : Bool}
    (h : s.skipIfKey i x wanted = .ok t) :
    ∃ k, s.keyIndex x = some k ∧ t = s.skipIf (s.keyDown k == wanted) := by
  unfold State.skipIfKey at h
  split at h
  · cases h
  · next k hk => exact ⟨k, hk, by injection h with h; exact h.symm⟩

/-- The call (R146): the push and the jump write the call stack and PC. -/
theorem InstrFrame.exec2NNN {nnn : BitVec 12} (h : exec2NNN nnn s = .next t) : InstrFrame s t := by
  refine .of_finish (fun u hu => ?_) h
  cases hpush : s.push s.pc with
  | error e => rw [hpush] at hu; cases hu
  | ok w =>
    rw [hpush] at hu; cases hu
    obtain ⟨-, rfl⟩ := State.push_eq_ok hpush
    rfl

/-- The key skips (R240, R241). -/
theorem InstrFrame.finish_skipIfKey {i : Instr} {x : Reg} {wanted : Bool}
    (h : finish s (s.skipIfKey i x wanted) = .next t) : InstrFrame s t :=
  .of_finish (fun _ hu => by obtain ⟨k, -, rfl⟩ := State.skipIfKey_eq_ok hu; exact .skipIf s _) h

/-- Every instruction keeps the frame: the arms that can take an error or skip by their shared operation,
each other arm by the update it is. -/
theorem exec_frame {i : Instr} (h : exec i s = .next t) : InstrFrame s t := by
  cases i with
  | op00EE =>
    refine .of_finish (fun u hu => ?_) h
    obtain ⟨top, rest, -, rfl⟩ := State.popToPc_eq_ok hu
    rfl
  | op2NNN nnn => exact .exec2NNN h
  | op3XNN | op4XNN | op5XY0 | op9XY0 => cases h; exact .skipIf s _
  | opEX9E | opEXA1 => exact .finish_skipIfKey h
  | opFX1E x =>
    refine .of_finish (fun u hu => ?_) h
    obtain ⟨-, rfl⟩ := State.addToI_eq_ok hu
    rfl
  | opDXYN | opFX33 | opFX55 | opFX65 => exact .of_finish_access (by rfl) h
  | _ => cases h; rfl

/-- So does the whole instruction step: fetch and advance write PC and the error register (R120 to
R122). -/
theorem executeInstruction_frame (h : executeInstruction s = .next t) : InstrFrame s t := by
  rcases executeInstruction_eq_next h with ⟨e, rfl⟩ | ⟨e, -, rfl⟩ | ⟨i, w, -, -, -, hexec⟩
  · exact .raiseError s e
  · rfl
  · have hframe : InstrFrame s.advance t := exec_frame hexec
    exact hframe

end

/-! ## The parameters through one action of the scheduler (R11) -/

section
variable {s t : State}

theorem andThen_eq_next {o : Host.Outcome State Fault Refusal} {f : State → State}
    (h : andThen o f = .next t) : ∃ u, o = .next u ∧ t = f u := by
  cases o with
  | next u => exact ⟨u, rfl, by injection h with h; exact h.symm⟩
  | fault r => cases h
  | refused r => cases h

/-- What one round of a batch can come to: the end of the frame, or one instruction and what follows it
(R281). -/
theorem State.batchStep_eq_next (h : s.batchStep = .next t) :
    (s.batchLeft = 0 ∧ t = s.endOfFrame) ∨
    (s.batchLeft ≠ 0 ∧ s.enabled = true ∧
      ∃ u, executeInstruction { s with batchLeft := s.batchLeft - 1 } = .next u ∧
        t = u.afterInstruction) := by
  unfold State.batchStep at h
  split at h
  · next hzero => cases h; exact .inl ⟨hzero, rfl⟩
  · next hleft =>
    split at h
    · next hen => exact .inr ⟨hleft, hen, andThen_eq_next h⟩
    · cases h

@[simp] theorem State.applyCommand_config (s : State) (c : Command) :
    (s.applyCommand c).config = s.config :=
  (congrArg State.config (s.applyCommand_frame c) :)

@[simp] theorem State.drainStep_config (s : State) : s.drainStep.config = s.config := by
  unfold State.drainStep
  split
  · simp
  · split <;> rfl

@[simp] theorem State.pollKeys_config (s : State) (w : KeyWait) :
    (s.pollKeys w).config = s.config := by
  unfold State.pollKeys
  split <;> rfl

@[simp] theorem State.decideStep_config (s : State) : s.decideStep.config = s.config := by
  unfold State.decideStep
  split
  · rfl
  · split
    · rfl
    · split
      · simp
      · split <;> rfl

/-- What follows an instruction of a batch can write (R281). -/
theorem State.afterInstruction_frame (s : State) :
    s.afterInstruction = { s with
      snapshot := s.afterInstruction.snapshot, batchLeft := s.afterInstruction.batchLeft
      phase := s.afterInstruction.phase } := by
  unfold State.afterInstruction
  split
  · rfl
  · split <;> rfl

theorem State.batchStep_config (h : s.batchStep = .next t) : t.config = s.config := by
  rcases State.batchStep_eq_next h with ⟨-, rfl⟩ | ⟨-, -, u, hu, rfl⟩
  · rfl
  · calc u.afterInstruction.config = u.config := (congrArg State.config u.afterInstruction_frame :)
      _ = s.config := (executeInstruction_frame hu).config_eq

/-- The step keeps the parameters, phase by phase of the scheduler's loop. -/
theorem step_config (h : step s = .next t) : t.config = s.config := by
  cases hp : s.phase with
  | iterationStart => rw [step_iterationStart hp] at h; cases h; rfl
  | draining => rw [step_draining hp] at h; cases h; exact s.drainStep_config
  | deciding => rw [step_deciding hp] at h; cases h; exact s.decideStep_config
  | batch => rw [step_batch hp] at h; exact State.batchStep_config h
  | pacing => rw [step_pacing hp] at h; cases h; exact (congrArg State.config s.paceStep_frame :)
  | terminated => rw [step_terminated hp] at h; cases h

end

end Sys2Proof.Machine

namespace Sys2Proof.Proofs

/-- Settles O57: by the phase of the scheduler's loop; inside a batch by the frame every instruction
shares. -/
theorem stepKeepsTheParameters : Obligations.StepKeepsTheParameters := by
  unfold Obligations.StepKeepsTheParameters
  exact fun _ _ h => Machine.step_config h

end Sys2Proof.Proofs

/-! ## What the outside world can do between two steps (R9, R260, R289, R292) -/

namespace Sys2Proof.Machine

section
variable {s : State}

/-- The FIFO is full exactly at a finite bound that its length has reached (R260). -/
theorem State.fifoFull_iff :
    s.fifoFull = true ↔ ∃ n, s.config.cmdFifoDepth = some n ∧ n ≤ s.cmdFifo.length := by
  unfold State.fifoFull
  cases s.config.cmdFifoDepth with
  | none => simp
  | some n => simp

theorem State.enqueue_of_room
    (h : ∀ n, s.config.cmdFifoDepth = some n → s.cmdFifo.length < n) (c : Command) :
    s.enqueue c = some { s with cmdFifo := s.cmdFifo ++ [c] } := by
  have hroom : ¬ s.fifoFull = true := fun hfull => by
    obtain ⟨n, hn, hle⟩ := State.fifoFull_iff.mp hfull
    exact absurd (h n hn) (Nat.not_lt.mpr hle)
  simp [State.enqueue, hroom]

theorem State.enqueue_of_full {n : Nat} (hn : s.config.cmdFifoDepth = some n)
    (hle : n ≤ s.cmdFifo.length) (c : Command) : s.enqueue c = none := by
  simp [State.enqueue, State.fifoFull_iff.mpr ⟨n, hn, hle⟩]

/-- An answer put at the end of a port with none pending is what the next read gives. -/
theorem Port.value_append_of_empty {α : Type} {p : Port α} (h : p.pending = []) (free : Nat → α)
    (a : α) : Port.value free ⟨p.pending ++ [a], p.taken⟩ = a := by
  rw [h, List.nil_append, Port.value_supplied]

theorem magnitude_of_nonneg {q : Duration} (h : 0 ≤ q) : magnitude q = q :=
  if_neg (not_lt.mpr h)

theorem State.rand8_supplyRand (h : s.randIn.pending = []) (b : Byte) :
    (s.supplyRand b).rand8 = b :=
  Port.value_append_of_empty h _ b

theorem State.clockReading_supplyClock (h : s.clockIn.pending = []) {q : Duration} (hq : 0 ≤ q) :
    (s.supplyClock q).clockReading = s.clock + q := by
  show s.clock + magnitude (Port.value _ ⟨s.clockIn.pending ++ [q], s.clockIn.taken⟩) = _
  rw [Port.value_append_of_empty h, magnitude_of_nonneg hq]

theorem State.hostSlept_supplySlept (h : s.sleepOut.pending = []) {q : Duration} (hq : 0 ≤ q) :
    (s.supplySlept q).hostSlept = q := by
  show magnitude (Port.value _ ⟨s.sleepOut.pending ++ [q], s.sleepOut.taken⟩) = _
  rw [Port.value_append_of_empty (p := s.sleepOut.toPort) h, magnitude_of_nonneg hq]

end

end Sys2Proof.Machine

namespace Sys2Proof.Proofs

open Machine

/-- Settles O42: the FIFO clauses by the bound's test, the port clauses by what a read of the port gives
once the answer stands at its end, the rest by the definitions of the actions. -/
theorem environmentActionsChangeOnlyWhatTheyName :
    Obligations.EnvironmentActionsChangeOnlyWhatTheyName := by
  unfold Obligations.EnvironmentActionsChangeOnlyWhatTheyName
  intro s c cfg b q path r
  exact ⟨fun hroom => State.enqueue_of_room hroom c,
    fun _ hn hle => State.enqueue_of_full hn hle c,
    rfl, fun hempty => State.rand8_supplyRand hempty b,
    rfl, fun hempty hq => State.clockReading_supplyClock hempty hq,
    rfl, fun hempty hq => State.hostSlept_supplySlept hempty hq,
    rfl, fun hother => State.romReply_supplyRom_self hother r,
    fun _ hne => State.romReply_supplyRom_of_ne hne r,
    rfl, rfl, fun hterm => if_pos hterm, fun hterm => if_neg hterm⟩

end Sys2Proof.Proofs

/-! ## Which instruction writes which element (R22, R23, R25, R28, R31 to R33, R44, R65, R330) -/

namespace Sys2Proof.Machine

/-- t is s but for the fields that the rule of instruction i names: `InstrFrame`, per instruction. -/
def WritesOnlyNamed (i : Instr) (s t : State) : Prop :=
  match i with
  | .op0NNN _ => t = s
  | .op00E0 => t = { s with fb := t.fb }
  | .op00EE | .op2NNN _ => t = { s with pc := t.pc, callStack := t.callStack, error := t.error }
  | .op1NNN _ | .opBNNN _ | .op3XNN _ _ | .op4XNN _ _ | .op5XY0 _ _ | .op9XY0 _ _ =>
    t = { s with pc := t.pc }
  | .op6XNN _ _ | .op7XNN _ _ | .op8XY0 _ _ | .op8XY1 _ _ | .op8XY2 _ _ | .op8XY3 _ _ | .op8XY4 _ _
  | .op8XY5 _ _ | .op8XY6 _ _ | .op8XY7 _ _ | .op8XYE _ _ | .opFX07 _ => t = { s with v := t.v }
  | .opANNN _ | .opFX29 _ => t = { s with i := t.i }
  | .opFX1E _ => t = { s with i := t.i, error := t.error }
  | .opCXNN _ _ => t = { s with v := t.v, randIn := t.randIn }
  | .opDXYN _ _ _ => t = { s with v := t.v, fb := t.fb, error := t.error }
  | .opEX9E _ | .opEXA1 _ => t = { s with pc := t.pc, error := t.error }
  | .opFX0A _ => t = { s with wait := t.wait }
  | .opFX15 _ => t = { s with dt := t.dt }
  | .opFX18 _ => t = { s with st := t.st }
  | .opFX33 _ | .opFX55 _ => t = { s with mem := t.mem, error := t.error }
  | .opFX65 _ => t = { s with v := t.v, error := t.error }

section
variable {i : Instr} {s t : State}

/-- Everything the call can do: the push and the jump, or the error of a full stack (R146). -/
theorem exec2NNN_eq_next {nnn : BitVec 12} (h : exec2NNN nnn s = .next t) :
    (s.stackFull = false ∧
      t = { s with pc := addressNNN nnn, callStack := s.callStack ++ [s.pc] }) ∨
    t = s.raiseError (.stackOverflow s.fetchAddr) := by
  cases hfull : s.stackFull with
  | false =>
    simp only [exec2NNN, State.push_of_room hfull] at h
    cases h; exact .inl ⟨rfl, rfl⟩
  | true =>
    simp only [exec2NNN, State.push_of_full hfull] at h
    cases h; exact .inr rfl

/-- The key skips write PC and the error register (R240, R241). -/
theorem finish_skipIfKey_frame {x : Reg} {wanted : Bool}
    (h : finish s (s.skipIfKey i x wanted) = .next t) :
    t = { s with pc := t.pc, error := t.error } := by
  rcases finish_eq_next h with hok | ⟨e, -, rfl⟩
  · obtain ⟨k, -, rfl⟩ := State.skipIfKey_eq_ok hok
    rw [State.skipIf_eq]
  · rfl

/-- The frame of each instruction, by its arm: the arms that can take an error by what their shared
operation can do, each other arm by the update it is. -/
theorem exec_writesOnlyNamed (h : exec i s = .next t) : WritesOnlyNamed i s t := by
  cases i with
  | op00EE =>
    rcases finish_eq_next h with hok | ⟨e, -, rfl⟩
    · obtain ⟨top, rest, -, rfl⟩ := State.popToPc_eq_ok hok
      rfl
    · rfl
  | op2NNN => rcases exec2NNN_eq_next h with ⟨-, rfl⟩ | rfl <;> rfl
  | op3XNN | op4XNN | op5XY0 | op9XY0 => cases h; rw [State.skipIf_eq]; rfl
  | opEX9E | opEXA1 => exact finish_skipIfKey_frame h
  | opFX1E =>
    rcases finish_eq_next h with hok | ⟨e, -, rfl⟩
    · obtain ⟨-, rfl⟩ := State.addToI_eq_ok hok
      rfl
    · rfl
  | opDXYN | opFX33 | opFX55 | opFX65 =>
    rcases finish_access_eq_next h with ⟨-, rfl⟩ | ⟨a, k, -, rfl⟩ <;> rfl
  | _ => cases h; rfl

/-! ### The writers of each element: every instruction that does not name it leaves it -/

theorem exec_i_writers (h : exec i s = .next t) (hne : t.i ≠ s.i) :
    ∃ nnn x, i ∈ [.opANNN nnn, .opFX1E x, .opFX29 x] := by
  have hw := exec_writesOnlyNamed h
  cases i with
  | opANNN nnn => exact ⟨nnn, 0, by simp⟩
  | opFX1E x | opFX29 x => exact ⟨0, x, by simp⟩
  | _ => exact absurd (congrArg (·.i) hw) hne

theorem exec_pc_writers (h : exec i s = .next t) (hne : t.pc ≠ s.pc) :
    ∃ nnn x y nn, i ∈ [.op00EE, .op1NNN nnn, .op2NNN nnn, .opBNNN nnn, .op3XNN x nn, .op4XNN x nn,
      .op5XY0 x y, .op9XY0 x y, .opEX9E x, .opEXA1 x] := by
  have hw := exec_writesOnlyNamed h
  cases i with
  | op00EE => exact ⟨0, 0, 0, 0, by simp⟩
  | op1NNN nnn | op2NNN nnn | opBNNN nnn => exact ⟨nnn, 0, 0, 0, by simp⟩
  | op3XNN x nn | op4XNN x nn => exact ⟨0, x, 0, nn, by simp⟩
  | op5XY0 x y | op9XY0 x y => exact ⟨0, x, y, 0, by simp⟩
  | opEX9E x | opEXA1 x => exact ⟨0, x, 0, 0, by simp⟩
  | _ => exact absurd (congrArg (·.pc) hw) hne

theorem exec_callStack_writers (h : exec i s = .next t) (hne : t.callStack ≠ s.callStack) :
    ∃ nnn, i ∈ [.op2NNN nnn, .op00EE] := by
  have hw := exec_writesOnlyNamed h
  cases i with
  | op00EE => exact ⟨0, by simp⟩
  | op2NNN nnn => exact ⟨nnn, by simp⟩
  | _ => exact absurd (congrArg (·.callStack) hw) hne

theorem exec_dt_writers (h : exec i s = .next t) (hne : t.dt ≠ s.dt) : ∃ x, i = .opFX15 x := by
  have hw := exec_writesOnlyNamed h
  cases i with
  | opFX15 x => exact ⟨x, rfl⟩
  | _ => exact absurd (congrArg (·.dt) hw) hne

theorem exec_st_writers (h : exec i s = .next t) (hne : t.st ≠ s.st) : ∃ x, i = .opFX18 x := by
  have hw := exec_writesOnlyNamed h
  cases i with
  | opFX18 x => exact ⟨x, rfl⟩
  | _ => exact absurd (congrArg (·.st) hw) hne

theorem exec_fb_writers (h : exec i s = .next t) (hne : t.fb ≠ s.fb) :
    ∃ x y n, i ∈ [.op00E0, .opDXYN x y n] := by
  have hw := exec_writesOnlyNamed h
  cases i with
  | op00E0 => exact ⟨0, 0, 0, by simp⟩
  | opDXYN x y n => exact ⟨x, y, n, by simp⟩
  | _ => exact absurd (congrArg (·.fb) hw) hne

theorem exec_mem_writers (h : exec i s = .next t) (hne : t.mem ≠ s.mem) :
    ∃ x, i ∈ [.opFX33 x, .opFX55 x] := by
  have hw := exec_writesOnlyNamed h
  cases i with
  | opFX33 x | opFX55 x => exact ⟨x, by simp⟩
  | _ => exact absurd (congrArg (·.mem) hw) hne

theorem exec_error_writers (h : exec i s = .next t) (hne : t.error ≠ s.error) :
    ∃ nnn x y n, i ∈ [.op00EE, .op2NNN nnn, .opFX1E x, .opFX33 x, .opFX55 x, .opFX65 x,
      .opDXYN x y n, .opEX9E x, .opEXA1 x] := by
  have hw := exec_writesOnlyNamed h
  cases i with
  | op00EE => exact ⟨0, 0, 0, 0, by simp⟩
  | op2NNN nnn => exact ⟨nnn, 0, 0, 0, by simp⟩
  | opFX1E x | opFX33 x | opFX55 x | opFX65 x | opEX9E x | opEXA1 x =>
    exact ⟨0, x, 0, 0, by simp⟩
  | opDXYN x y n => exact ⟨0, x, y, n, by simp⟩
  | _ => exact absurd (congrArg (·.error) hw) hne

theorem exec_wait_writers (h : exec i s = .next t) (hne : t.wait ≠ s.wait) :
    ∃ x, i = .opFX0A x := by
  have hw := exec_writesOnlyNamed h
  cases i with
  | opFX0A x => exact ⟨x, rfl⟩
  | _ => exact absurd (congrArg (·.wait) hw) hne

theorem exec_randIn_writers (h : exec i s = .next t) (hne : t.randIn ≠ s.randIn) :
    ∃ x nn, i = .opCXNN x nn := by
  have hw := exec_writesOnlyNamed h
  cases i with
  | opCXNN x nn => exact ⟨x, nn, rfl⟩
  | _ => exact absurd (congrArg (·.randIn) hw) hne

/-! ### The writers of a general register -/

variable {r x : Reg}

theorem State.eq_of_readV_setV_ne {b : Byte} (hne : (s.setV x b).readV r ≠ s.readV r) : r = x :=
  not_not.mp fun hrx => hne (s.readV_setV_of_ne x r b hrx)

theorem State.eq_of_readV_resultThenFlag_ne {result flag : Byte}
    (hne : (s.resultThenFlag x result flag).readV r ≠ s.readV r) : r = x ∨ r = 15 := by
  by_contra hneither
  obtain ⟨hrx, hr15⟩ := not_or.mp hneither
  exact hne (by simp [hrx, hr15])

theorem State.eq_of_readV_outBitThenShift_ne {outBit shift : Byte → Byte}
    (hne : (s.outBitThenShift x outBit shift).readV r ≠ s.readV r) : r = x ∨ r = 15 := by
  by_contra hneither
  obtain ⟨hrx, hr15⟩ := not_or.mp hneither
  exact hne (by simp [State.readV_outBitThenShift, hrx, hr15])

/-- A run of n registers from V0 leaves those from n up. -/
theorem State.lt_of_readV_loadRegisters_ne {bs : List Byte}
    (hne : ({ s with v := loadRegisters s.v 0 bs } : State).readV r ≠ s.readV r) :
    r.val < bs.length := by
  by_contra hge
  refine hne ?_
  show (loadRegisters s.v 0 bs)[r.val] = s.v[r.val]
  rw [getElem_loadRegisters, dif_neg (by omega)]

/-- A general register is written only as an instruction's destination, or as the flag. -/
theorem exec_readV_writers (h : exec i s = .next t) (hne : t.readV r ≠ s.readV r) :
    (∃ y nn, i ∈ [.op6XNN r nn, .op7XNN r nn, .op8XY0 r y, .op8XY1 r y, .op8XY2 r y, .op8XY3 r y,
      .op8XY4 r y, .op8XY5 r y, .op8XY6 r y, .op8XY7 r y, .op8XYE r y, .opCXNN r nn, .opFX07 r]) ∨
    (∃ x, r ≤ x ∧ i = .opFX65 x) ∨
    (r = 15 ∧ ∃ x y n, i ∈ [.op8XY1 x y, .op8XY2 x y, .op8XY3 x y, .op8XY4 x y, .op8XY5 x y,
      .op8XY6 x y, .op8XY7 x y, .op8XYE x y, .opDXYN x y n]) := by
  have hw := exec_writesOnlyNamed h
  cases i with
  | op6XNN x nn | op7XNN x nn =>
    cases h
    obtain rfl := State.eq_of_readV_setV_ne hne
    exact .inl ⟨0, nn, by simp⟩
  | op8XY0 x y =>
    cases h
    obtain rfl := State.eq_of_readV_setV_ne hne
    exact .inl ⟨y, 0, by simp⟩
  | op8XY1 x y | op8XY2 x y | op8XY3 x y | op8XY4 x y | op8XY5 x y | op8XY7 x y =>
    cases h
    obtain rfl | hflag := State.eq_of_readV_resultThenFlag_ne hne
    · exact .inl ⟨y, 0, by simp⟩
    · exact .inr (.inr ⟨hflag, x, y, 0, by simp⟩)
  | op8XY6 x y | op8XYE x y =>
    cases h
    obtain rfl | hflag := State.eq_of_readV_outBitThenShift_ne hne
    · exact .inl ⟨y, 0, by simp⟩
    · exact .inr (.inr ⟨hflag, x, y, 0, by simp⟩)
  | opCXNN x nn =>
    cases h
    obtain rfl := State.eq_of_readV_setV_ne (s := s.dropRand) hne
    exact .inl ⟨0, nn, by simp⟩
  | opDXYN x y n =>
    rcases finish_access_eq_next h with ⟨-, rfl⟩ | ⟨a, k, -, rfl⟩
    · have hflag : r = 15 := State.eq_of_readV_setV_ne hne
      exact .inr (.inr ⟨hflag, x, y, n, by simp⟩)
    · exact absurd rfl hne
  | opFX07 x =>
    cases h
    obtain rfl := State.eq_of_readV_setV_ne hne
    exact .inl ⟨0, 0, by simp⟩
  | opFX65 x =>
    rcases finish_access_eq_next h with ⟨-, rfl⟩ | ⟨a, k, -, rfl⟩
    · have hlt := State.lt_of_readV_loadRegisters_ne hne
      rw [State.length_bytesAtI] at hlt
      exact .inr (.inl ⟨x, Fin.le_def.mpr (Nat.lt_succ_iff.mp hlt), rfl⟩)
    · exact absurd rfl hne
  | _ => exact absurd (congrArg (·.readV r) hw) hne

end

end Sys2Proof.Machine

namespace Sys2Proof.Proofs

open Machine

/-- Settles O55: each element's writers, by the frame of each instruction. -/
theorem onlyTheNamedInstructionsWriteEachElement :
    Obligations.OnlyTheNamedInstructionsWriteEachElement := by
  unfold Obligations.OnlyTheNamedInstructionsWriteEachElement
  intro i s t h
  exact ⟨fun _ => exec_readV_writers h, exec_i_writers h, exec_pc_writers h, exec_callStack_writers h,
    exec_dt_writers h, exec_st_writers h, exec_fb_writers h, exec_mem_writers h, exec_error_writers h,
    exec_wait_writers h, exec_randIn_writers h⟩

/-- Settles O54: the writers of a general register, at VF; `FX65` reaches VF only as `FF65`. -/
theorem onlyTheNamedInstructionsWriteVF : Obligations.OnlyTheNamedInstructionsWriteVF := by
  unfold Obligations.OnlyTheNamedInstructionsWriteVF
  intro i s t h hne
  rcases exec_readV_writers h hne with ⟨y, nn, hi⟩ | ⟨x, hx, rfl⟩ | ⟨-, x, y, n, hi⟩
  · fin_cases hi <;> simp
  · obtain rfl : x = 15 := le_antisymm (Fin.le_last x) hx
    simp
  · fin_cases hi <;> simp

end Sys2Proof.Proofs

/-! ## What every step keeps (R30, R31, R33, R60, R63, R65, R125, R288, R294, R36)

`DataInv` is the part of the invariant that does not speak of the scheduler. -/

namespace Sys2Proof.Machine

/-- The part of the invariant about memory, the framebuffer, PC, the call stack and the ROM metadata. -/
structure DataInv (s : State) : Prop where
  /-- See `MemoryInv`. -/
  memory : MemoryInv s
  /-- See `GridInv`. -/
  grid : GridInv s
  /-- See `PcInv`. -/
  pc : PcInv s
  /-- See `StackInv`. -/
  stack : StackInv s
  /-- See `RomInv`. -/
  rom : RomInv s

/-- t has the fields `DataInv` speaks of from s. -/
def KeepsData (s t : State) : Prop :=
  t = { t with mem := s.mem, fb := s.fb, pc := s.pc, callStack := s.callStack, romName := s.romName,
               romSize := s.romSize, config := s.config }

section
variable {s t u : State}

theorem Inv.data (h : Inv s) : DataInv s := ⟨h.memory, h.grid, h.pc, h.stack, h.rom⟩

theorem DataInv.inv (h : DataInv s) (hsched : SchedulerInv s) (herr : ErrorVisible s) : Inv s :=
  ⟨h.memory, h.grid, h.pc, h.stack, hsched, herr, h.rom⟩

/-! ### Each part of the invariant depends on its own fields -/

theorem MemoryInv.congr (h : MemoryInv s) (hmem : t.mem = s.mem) (hconfig : t.config = s.config) :
    MemoryInv t := by
  obtain ⟨hcanon, hrange, hfont⟩ := h
  exact ⟨by rwa [hmem, hconfig], by rwa [hmem], by rwa [hmem, hconfig]⟩

theorem GridInv.congr (h : GridInv s) (hfb : t.fb = s.fb) (hconfig : t.config = s.config) :
    GridInv t := by
  unfold GridInv at *
  rwa [hfb, hconfig]

theorem StackInv.congr (h : StackInv s) (hstack : t.callStack = s.callStack)
    (hconfig : t.config = s.config) : StackInv t := by
  unfold StackInv at *
  rwa [hstack, hconfig]

theorem RomInv.congr (h : RomInv s) (hname : t.romName = s.romName) (hsize : t.romSize = s.romSize) :
    RomInv t := by
  obtain ⟨htogether, hbound⟩ := h
  constructor
  · rwa [hname, hsize]
  · rwa [hsize]

theorem DataInv.of_keepsData (h : DataInv s) (hk : KeepsData s t) : DataInv t := by
  obtain ⟨hmem, hgrid, ⟨hpc, hret⟩, hstack, hrom⟩ := h
  rw [hk]
  exact ⟨hmem.congr rfl rfl, hgrid.congr rfl rfl, ⟨hpc, hret⟩, hstack.congr rfl rfl,
    hrom.congr rfl rfl⟩

/-- A scheduler action that keeps the data leaves the scheduler's two parts to show. -/
theorem DataInv.inv_of_keepsData (h : DataInv s) (hk : KeepsData s t) (hsched : SchedulerInv t)
    (herr : ErrorVisible t) : Inv t :=
  (h.of_keepsData hk).inv hsched herr

/-! ### Memory: checked stores and loaded ROMs (R60, R63, R65) -/

/-- A write inside memory, and above a protected font, keeps the memory's part of the invariant. -/
theorem MemoryInv.writeBytes (h : MemoryInv s) {a : Nat} {bs : List Byte}
    (hend : a + bs.length ≤ 0x1000) (hstart : s.config.fontWrite = .fault → 0x04F < a) :
    MemoryInv (s.writeBytes a bs) where
  canonical := Memory.wf_writeAll s.config.font h.canonical a bs
  inRange c hc := by
    rcases Memory.mem_writeAll s.config.font hc with ⟨-, hlt⟩ | hold
    · omega
    · exact h.inRange c hold
  fontIntact hfw c hc := by
    rcases Memory.mem_writeAll s.config.font hc with ⟨hge, -⟩ | hold
    · exact Nat.lt_of_lt_of_le (hstart hfw) hge
    · exact h.fontIntact hfw c hold

/-- A store at I that its check lets through keeps it (R63, R64). -/
theorem MemoryInv.writeBytes_of_writeFaultAtI (h : MemoryInv s) {bs : List Byte} {n : Nat}
    (hn : n ≠ 0) (hlen : bs.length = n) (hcheck : s.writeFaultAtI n = none) :
    MemoryInv (s.writeBytes (s.addressI 0) bs) := by
  obtain ⟨hend, hstart⟩ := (s.writeFaultAtI_none n hn).mp hcheck
  exact h.writeBytes (by rw [hlen]; exact hend) hstart

theorem exec_memoryInv {i : Instr} (h : exec i s = .next t) (hinv : MemoryInv s) : MemoryInv t := by
  have hconfig := (exec_frame h).config_eq
  by_cases hmem : t.mem = s.mem
  · exact hinv.congr hmem hconfig
  · obtain ⟨x, hi⟩ := exec_mem_writers h hmem
    simp only [List.mem_cons, List.not_mem_nil, or_false] at hi
    rcases hi with rfl | rfl <;> rcases finish_access_eq_next h with ⟨hcheck, rfl⟩ | ⟨a, k, -, rfl⟩
    · exact hinv.writeBytes_of_writeFaultAtI three_ne_zero rfl hcheck
    · exact absurd rfl hmem
    · exact hinv.writeBytes_of_writeFaultAtI (Nat.succ_ne_zero x) (s.length_registersTo x) hcheck
    · exact absurd rfl hmem

/-! ### The framebuffer (R33) -/

theorem State.wf_drawn (h : GridInv s) (x y : Reg) (n : Nat) :
    Framebuffer.wf s.config.fbWidth s.config.fbHeight (s.drawn x y n).fb := by
  rw [State.drawn, Canvas.plotRows_eq, Canvas.fb_plotPoints]
  exact Framebuffer.wf_foldl_toggle h _

theorem exec_gridInv {i : Instr} (h : exec i s = .next t) (hinv : GridInv s) : GridInv t := by
  have hconfig := (exec_frame h).config_eq
  by_cases hfb : t.fb = s.fb
  · exact hinv.congr hfb hconfig
  · obtain ⟨x, y, n, hi⟩ := exec_fb_writers h hfb
    simp only [List.mem_cons, List.not_mem_nil, or_false] at hi
    rcases hi with rfl | rfl
    · cases h; exact Framebuffer.wf_blank _ _
    · rcases finish_access_eq_next h with ⟨-, rfl⟩ | ⟨a, k, -, rfl⟩
      · exact State.wf_drawn hinv x y n
      · exact absurd rfl hfb

/-! ### PC and the call stack (R30, R31) -/

theorem addressNNN_toNat_lt (nnn : BitVec 12) : (addressNNN nnn).toNat < 0x1000 := by
  rw [addressNNN, BitVec.toNat_setWidth]
  omega

/-- The furthest target of `BNNN` is 0xFFF + 0xFF (R147). -/
theorem State.addressPlusV0_toNat_le (s : State) (nnn : BitVec 12) :
    (s.addressPlusV0 nnn).toNat ≤ 0x10FE := by
  have hnnn := addressNNN_toNat_lt nnn
  rw [State.addressPlusV0, BitVec.toNat_add, BitVec.toNat_setWidth]
  omega

/-- An address in memory's range plus 2 does not wrap. -/
theorem toNat_add_two {a : Word} (h : a.toNat ≤ 0x1000) : (a + 2#16).toNat = a.toNat + 2 := by
  bv_omega

/-- From an advanced PC a skip stays far below 0x10FE (R141). -/
theorem State.skipIf_pc_le (h : s.pc.toNat ≤ 0x1000) (c : Bool) :
    (s.skipIf c).pc.toNat ≤ 0x10FE := by
  have hadd := toNat_add_two h
  rw [State.skipIf_eq]
  cases c with
  | false => exact Nat.le_trans h (by decide)
  | true => show (s.pc + 2#16).toNat ≤ 0x10FE; omega

/-- From an advanced PC, every instruction leaves PC in the range that never wraps. -/
theorem exec_pc_le {i : Instr} (h : exec i s = .next t) (hpc : s.pc.toNat ≤ 0x1000)
    (hret : ∀ a ∈ s.callStack, a.toNat ≤ 0x1000) : t.pc.toNat ≤ 0x10FE := by
  have hkept : s.pc.toNat ≤ 0x10FE := Nat.le_trans hpc (by decide)
  by_cases hsame : t.pc = s.pc
  · rwa [hsame]
  · have hw := exec_writesOnlyNamed h
    cases i with
    | op00EE =>
      rcases finish_eq_next h with hok | ⟨e, -, rfl⟩
      · obtain ⟨top, rest, hstack, rfl⟩ := State.popToPc_eq_ok hok
        exact Nat.le_trans (hret top (by simp [hstack])) (by decide)
      · exact hkept
    | op1NNN nnn => cases h; exact Nat.le_trans (addressNNN_toNat_lt nnn).le (by decide)
    | op2NNN nnn =>
      rcases exec2NNN_eq_next h with ⟨-, rfl⟩ | rfl
      · exact Nat.le_trans (addressNNN_toNat_lt nnn).le (by decide)
      · exact hkept
    | opBNNN nnn => cases h; exact s.addressPlusV0_toNat_le nnn
    | op3XNN | op4XNN | op5XY0 | op9XY0 => cases h; exact State.skipIf_pc_le hpc _
    | opEX9E | opEXA1 =>
      rcases finish_eq_next h with hok | ⟨e, -, rfl⟩
      · obtain ⟨k, -, rfl⟩ := State.skipIfKey_eq_ok hok
        exact State.skipIf_pc_le hpc _
      · exact hkept
    | _ => exact absurd (congrArg (·.pc) hw) hsame

/-- What an instruction can do to the call stack: drop its top, or push PC below the bound (R142). -/
theorem exec_callStack_cases {i : Instr} (h : exec i s = .next t) :
    t.callStack = s.callStack ∨
    (∃ top, s.callStack = t.callStack ++ [top]) ∨
    (s.stackFull = false ∧ t.callStack = s.callStack ++ [s.pc]) := by
  by_cases hsame : t.callStack = s.callStack
  · exact .inl hsame
  · obtain ⟨nnn, hi⟩ := exec_callStack_writers h hsame
    simp only [List.mem_cons, List.not_mem_nil, or_false] at hi
    rcases hi with rfl | rfl
    · rcases exec2NNN_eq_next h with ⟨hroom, rfl⟩ | rfl
      · exact .inr (.inr ⟨hroom, rfl⟩)
      · exact .inl rfl
    · rcases finish_eq_next h with hok | ⟨e, -, rfl⟩
      · obtain ⟨top, rest, hstack, rfl⟩ := State.popToPc_eq_ok hok
        exact .inr (.inl ⟨top, hstack⟩)
      · exact .inl rfl

theorem exec_returns_le {i : Instr} (h : exec i s = .next t) (hpc : s.pc.toNat ≤ 0x1000)
    (hret : ∀ a ∈ s.callStack, a.toNat ≤ 0x1000) : ∀ a ∈ t.callStack, a.toNat ≤ 0x1000 := by
  rcases exec_callStack_cases h with hsame | ⟨top, hpop⟩ | ⟨-, hpush⟩
  · rwa [hsame]
  · exact fun a ha => hret a (hpop ▸ List.mem_append_left _ ha)
  · rw [hpush]
    intro a ha
    rcases List.mem_append.mp ha with hold | hnew
    · exact hret a hold
    · rwa [List.mem_singleton.mp hnew]

/-- Below a finite bound that is not reached there is room for one more. -/
theorem StackInv.length_lt_of_room (h : StackInv s) (hroom : s.stackFull = false) {n : Nat}
    (hn : s.config.stackDepth = some n) : s.callStack.length < n := by
  have hne : s.callStack.length ≠ n := by simpa [State.stackFull, hn] using hroom
  exact Nat.lt_of_le_of_ne (h n hn) hne

theorem exec_stackInv {i : Instr} (h : exec i s = .next t) (hinv : StackInv s) : StackInv t := by
  intro n hn
  rw [(exec_frame h).config_eq] at hn
  have hle := hinv n hn
  rcases exec_callStack_cases h with hsame | ⟨top, hpop⟩ | ⟨hroom, hpush⟩
  · rwa [hsame]
  · rw [hpop, List.length_append] at hle; omega
  · rw [hpush, List.length_append]
    exact hinv.length_lt_of_room hroom hn

/-! ### The instruction step -/

/-- An instruction keeps the data part, from an advanced PC. -/
theorem exec_dataInv {i : Instr} (h : exec i s = .next t) (hpc : s.pc.toNat ≤ 0x1000)
    (hinv : DataInv s) : DataInv t := by
  have hframe := exec_frame h
  obtain ⟨hmem, hgrid, ⟨-, hret⟩, hstack, hrom⟩ := hinv
  exact ⟨exec_memoryInv h hmem, exec_gridInv h hgrid,
    ⟨exec_pc_le h hpc hret, exec_returns_le h hpc hret⟩, exec_stackInv h hstack,
    hrom.congr (congrArg (·.romName) hframe) (congrArg (·.romSize) hframe)⟩

/-- A fetchable PC advances to at most 0x1000 (R121). -/
theorem State.advance_pc_le (h : s.pc.toNat ≤ 0xFFE) : s.advance.pc.toNat ≤ 0x1000 := by
  have hadd := toNat_add_two (Nat.le_trans h (by decide) : s.pc.toNat ≤ 0x1000)
  show (s.pc + 2#16).toNat ≤ 0x1000
  omega

theorem DataInv.advance (h : DataInv s) (hpc : s.pc.toNat ≤ 0xFFE) : DataInv s.advance := by
  obtain ⟨hmem, hgrid, ⟨-, hret⟩, hstack, hrom⟩ := h
  exact ⟨hmem.congr rfl rfl, hgrid.congr rfl rfl,
    ⟨Nat.le_trans (State.advance_pc_le hpc) (by decide), hret⟩, hstack.congr rfl rfl,
    hrom.congr rfl rfl⟩

theorem DataInv.raiseError (h : DataInv s) (e : EngineError) : DataInv (s.raiseError e) :=
  h.of_keepsData rfl

theorem executeInstruction_dataInv (h : executeInstruction s = .next t) (hinv : DataInv s) :
    DataInv t := by
  rcases executeInstruction_eq_next h with ⟨e, rfl⟩ | ⟨e, hpc, rfl⟩ | ⟨i, w, hpc, -, -, hexec⟩
  · exact hinv.raiseError e
  · exact (hinv.advance hpc).raiseError e
  · exact exec_dataInv hexec (State.advance_pc_le hpc) (hinv.advance hpc)

/-- No instruction both takes an error and enters the key wait. -/
theorem exec_wait_of_error_ne {i : Instr} (h : exec i s = .next t) (herr : t.error ≠ s.error) :
    t.wait = s.wait := by
  by_contra hwait
  obtain ⟨x, rfl⟩ := exec_wait_writers h hwait
  cases h
  exact herr rfl

theorem executeInstruction_wait_of_error_ne (h : executeInstruction s = .next t)
    (herr : t.error ≠ s.error) : t.wait = s.wait := by
  rcases executeInstruction_eq_next h with ⟨e, rfl⟩ | ⟨e, -, rfl⟩ | ⟨i, w, -, -, -, hexec⟩
  · rfl
  · rfl
  · exact exec_wait_of_error_ne (s := s.advance) hexec herr

/-! ### The scheduler's parts of the invariant, by phase -/

/-- Outside a batch, and before termination, the scheduler's part asks nothing. -/
theorem SchedulerInv.of_phase (hbatch : t.phase ≠ .batch) (hterm : t.phase ≠ .terminated) :
    SchedulerInv t :=
  ⟨fun h => absurd h hbatch, fun h => absurd h hbatch, fun h => absurd h hterm⟩

/-- Inside a batch it asks for no key wait, and the step's preconditions while instructions are left. -/
theorem SchedulerInv.of_batch (hphase : t.phase = .batch) (hwait : t.wait = none)
    (henabled : t.batchLeft ≠ 0 → t.enabled = true) : SchedulerInv t :=
  ⟨fun _ => henabled, fun _ => hwait, fun h => by rw [hphase] at h; cases h⟩

theorem ErrorVisible.of_snapshot (h : t.snapshot.machine.error = t.error) : ErrorVisible t :=
  ⟨fun _ _ => h, fun _ _ => h⟩

theorem ErrorVisible.of_batch (hphase : t.phase = .batch) : ErrorVisible t :=
  ⟨fun _ h => absurd hphase h, fun h => by rw [hphase] at h; cases h⟩

/-- The instruction step is enabled exactly without an error, a requested exit and a key wait (R125). -/
theorem State.enabled_iff :
    s.enabled = true ↔ s.error = none ∧ s.exitRequested = false ∧ s.wait = none := by
  simp [State.enabled, and_assoc]

/-! ### Each action of the scheduler keeps the invariant -/

theorem Inv.beginIteration (h : Inv s) (hphase : s.phase = .iterationStart) :
    Inv s.beginIteration := by
  have hshown : s.snapshot.machine.error = s.error :=
    h.errors.published (by simp [hphase]) (by simp [hphase])
  exact h.data.inv_of_keepsData rfl (.of_phase nofun nofun) (.of_snapshot hshown)

/-- A `LoadRom` that loads writes at most 3584 bytes from 0x200, above the font (R264, R65). -/
theorem DataInv.loadRom (h : DataInv s) (path : String) : DataInv (s.loadRom path) := by
  rcases s.loadRom_cases path with ⟨e, ht⟩ | ⟨b, -, hlen, ht⟩ <;> rw [ht]
  · exact h.of_keepsData rfl
  · obtain ⟨hmem, hgrid, ⟨hpc, hret⟩, hstack, -⟩ := h
    have hwritten : MemoryInv ((s.requestRom path).writeBytes 0x200 b) :=
      MemoryInv.writeBytes (s := s.requestRom path) (hmem.congr rfl rfl)
        (show 0x200 + b.length ≤ 0x1000 by omega) (fun _ => by decide)
    exact ⟨hwritten.congr rfl rfl, hgrid.congr rfl rfl, ⟨hpc, hret⟩, hstack.congr rfl rfl,
      ⟨rfl, fun n hn => Option.some.inj hn ▸ hlen⟩⟩

theorem DataInv.applyCommand (h : DataInv s) (c : Command) : DataInv (s.applyCommand c) := by
  cases c with
  | loadRom path => exact h.loadRom path
  | _ => exact h.of_keepsData rfl

theorem Inv.drainStep (h : Inv s) (hphase : s.phase = .draining) : Inv s.drainStep := by
  unfold State.drainStep
  split
  · next c rest hfifo =>
    have hdata : DataInv { s with cmdFifo := rest, applied := s.applied + 1 } :=
      h.data.of_keepsData rfl
    have hframe :=
      State.applyCommand_frame { s with cmdFifo := rest, applied := s.applied + 1 } c
    have hdraining := (congrArg (·.phase) hframe).trans hphase
    have happlied : _ = s.applied + 1 := congrArg (·.applied) hframe
    refine (hdata.applyCommand c).inv (.of_phase (by simp [hdraining]) (by simp [hdraining])) ?_
    exact ⟨fun hnot => absurd hdraining hnot, fun _ hzero => nomatch happlied.symm.trans hzero⟩
  · split
    · exact h.data.inv_of_keepsData rfl (.of_phase nofun nofun) (.of_snapshot rfl)
    · next hnone =>
      have hshown : s.snapshot.machine.error = s.error :=
        h.errors.beforeDrain hphase (Nat.eq_zero_of_not_pos hnone)
      exact h.data.inv_of_keepsData rfl (.of_phase nofun nofun) (.of_snapshot hshown)

/-- A poll resumes the batch without a wait, or publishes (R246, R282). -/
theorem Inv.pollKeys (h : Inv s) (herr : s.error = none) (hexit : s.exitRequested = false)
    (w : KeyWait) : Inv (s.pollKeys w) := by
  unfold State.pollKeys
  split
  · exact h.data.inv_of_keepsData rfl
      (.of_batch rfl rfl fun _ => State.enabled_iff.mpr ⟨herr, hexit, rfl⟩) (.of_batch rfl)
  · exact h.data.inv_of_keepsData rfl (.of_phase nofun nofun) (.of_snapshot rfl)

theorem Inv.decideStep (h : Inv s) (hphase : s.phase = .deciding) : Inv s.decideStep := by
  have hshown : s.snapshot.machine.error = s.error :=
    h.errors.published (by simp [hphase]) (by simp [hphase])
  unfold State.decideStep
  split
  · next hexit =>
    exact h.data.inv_of_keepsData rfl ⟨nofun, nofun, fun _ => hexit⟩ (.of_snapshot hshown)
  next hexit =>
  split
  · exact h.data.inv_of_keepsData rfl (.of_phase nofun nofun) (.of_snapshot hshown)
  next herr =>
  have herr : s.error = none := by simpa using herr
  have hexit : s.exitRequested = false := by simpa using hexit
  split
  · next w hwait => exact h.pollKeys herr hexit w
  next hwait =>
  split
  · exact h.data.inv_of_keepsData rfl
      (.of_batch rfl hwait fun _ => State.enabled_iff.mpr ⟨herr, hexit, hwait⟩) (.of_batch rfl)
  · exact h.data.inv_of_keepsData rfl (.of_phase nofun nofun) (.of_snapshot hshown)

/-- After an instruction of a batch that was enabled: an error leaves no wait and ends the batch, an entered
wait publishes and leaves it, otherwise the batch goes on enabled (R281). -/
theorem DataInv.afterInstruction_inv (h : DataInv u) (hphase : u.phase = .batch)
    (hexit : u.exitRequested = false) (hwait : u.error ≠ none → u.wait = none) :
    Inv u.afterInstruction := by
  unfold State.afterInstruction
  split
  · next hended =>
    have herr : u.error ≠ none := by simpa [hexit, Option.isSome_iff_ne_none] using hended
    exact h.inv_of_keepsData rfl (.of_batch hphase (hwait herr) fun hleft => absurd rfl hleft)
      (.of_batch hphase)
  next hgoesOn =>
  have herr : u.error = none := by simpa [hexit] using hgoesOn
  split
  · exact h.inv_of_keepsData rfl (.of_phase nofun nofun) (.of_snapshot rfl)
  · next hnowait =>
    have hnone : u.wait = none := by simpa using hnowait
    exact h.inv (.of_batch hphase hnone fun _ => State.enabled_iff.mpr ⟨herr, hexit, hnone⟩)
      (.of_batch hphase)

theorem Inv.batchStep (h : Inv s) (hphase : s.phase = .batch) (ht : s.batchStep = .next t) :
    Inv t := by
  rcases State.batchStep_eq_next ht with ⟨-, rfl⟩ | ⟨-, henabled, u, hu, rfl⟩
  · exact h.data.inv_of_keepsData rfl (.of_phase nofun nofun) (.of_snapshot rfl)
  · obtain ⟨herr, hexit, hwait⟩ := State.enabled_iff.mp henabled
    have hdata : DataInv { s with batchLeft := s.batchLeft - 1 } := h.data.of_keepsData rfl
    have hframe := executeInstruction_frame hu
    refine (executeInstruction_dataInv hu hdata).afterInstruction_inv
      ((congrArg (·.phase) hframe).trans hphase) ((congrArg (·.exitRequested) hframe).trans hexit)
      fun hne => ?_
    exact (executeInstruction_wait_of_error_ne hu fun hsame => hne (hsame.trans herr)).trans hwait

theorem Inv.paceStep (h : Inv s) (hphase : s.phase = .pacing) : Inv s.paceStep := by
  have hshown : s.snapshot.machine.error = s.error :=
    h.errors.published (by simp [hphase]) (by simp [hphase])
  rw [State.paceStep_frame]
  exact h.data.inv_of_keepsData rfl (.of_phase nofun nofun) (.of_snapshot hshown)

/-- The step keeps the invariant, phase by phase of the scheduler's loop. -/
theorem step_inv (h : Inv s) (ht : step s = .next t) : Inv t := by
  cases hphase : s.phase with
  | iterationStart => rw [step_iterationStart hphase] at ht; cases ht; exact h.beginIteration hphase
  | draining => rw [step_draining hphase] at ht; cases ht; exact h.drainStep hphase
  | deciding => rw [step_deciding hphase] at ht; cases ht; exact h.decideStep hphase
  | batch => rw [step_batch hphase] at ht; exact h.batchStep hphase ht
  | pacing => rw [step_pacing hphase] at ht; cases ht; exact h.paceStep hphase
  | terminated => rw [step_terminated hphase] at ht; cases ht

end

end Sys2Proof.Machine

namespace Sys2Proof.Proofs

/-- Settles O59: by the phase of the scheduler's loop; inside a batch by what each instruction can write,
from a PC that a successful fetch bounds. -/
theorem stepKeepsTheInvariant : Obligations.StepKeepsTheInvariant := by
  unfold Obligations.StepKeepsTheInvariant
  exact fun _ _ => Machine.step_inv

end Sys2Proof.Proofs

/-! ## Accesses at I that fail (R61, R63, R64, R313) -/

namespace Sys2Proof.Machine

/-- A check that fails above 0xFFF and passes from a up to there fails a run from a past the end of memory
at the lowest address above 0xFFF (R64). -/
theorem firstFault_eq_outOfRange {check : Nat → Option FaultKind} {a n : Nat} (hn : n ≠ 0)
    (hend : 0x1000 < a + n) (habove : ∀ y, 0xFFF < y → check y = some .outOfRange)
    (hwithin : ∀ y, a ≤ y → y ≤ 0xFFF → check y = none) :
    firstFault check a n = some (max 0x1000 a, .outOfRange) :=
  (firstFault_eq_some check a n _ _).mpr
    ⟨Nat.le_max_right _ _, by omega, habove _ (by omega), fun y hay hy => hwithin y hay (by omega)⟩

section
variable {s : State} {n : Nat}

/-- Reads from I past the end of memory (R61, R64). -/
theorem State.readFaultAtI_outOfRange (hn : n ≠ 0) (hend : 0x1000 < s.addressI n) :
    s.readFaultAtI n = some (max 0x1000 (s.addressI 0), .outOfRange) :=
  firstFault_eq_outOfRange hn hend (fun _ hy => if_pos hy) (fun _ _ hy => if_neg (Nat.not_lt.mpr hy))

/-- At most 16 writes from I past the end of memory: they start above the font, so its protection does not
come first (R63, R64). -/
theorem State.writeFaultAtI_outOfRange (hn : n ≠ 0) (hle : n ≤ 16) (hend : 0x1000 < s.addressI n) :
    s.writeFaultAtI n = some (max 0x1000 (s.addressI 0), .outOfRange) := by
  have hstart : 0x04F < s.addressI 0 := by simp only [State.addressI] at hend ⊢; omega
  refine firstFault_eq_outOfRange hn hend (fun y hy => if_pos hy) (fun y hay hy => ?_)
  have habove : ¬(y ≤ 0x04F ∧ s.config.fontWrite = .fault) := fun ⟨hlow, _⟩ => by omega
  rw [writeFault, if_neg (Nat.not_lt.mpr hy), if_neg habove]

/-- Writes from an I inside a protected font: the first byte already fails (R63, R64). -/
theorem State.writeFaultAtI_fontWrite (hn : n ≠ 0) (hprotected : s.config.fontWrite = .fault)
    (hfont : s.addressI 0 ≤ 0x04F) :
    s.writeFaultAtI n = some (s.addressI 0, .fontWrite) := by
  have hcheck : writeFault s.config (s.addressI 0) = some .fontWrite := by
    rw [writeFault, if_neg (by omega), if_pos ⟨hfont, hprotected⟩]
  exact (firstFault_eq_some _ _ n _ _).mpr ⟨Nat.le_refl _, by omega, hcheck, fun y _ _ => by omega⟩

/-- A checked access with a failing address takes its error in the entry state and accesses nothing
(R64, R126, R313). -/
theorem finish_access_of_eq_some {u : State} {i : Instr} {f : Option (Nat × FaultKind)} {a : Nat}
    {k : FaultKind} (hf : f = some (a, k)) :
    finish s (s.access i f u)
      = .next (s.raiseError (.memoryFault (some (encode i)) s.fetchAddr a k)) := by
  rw [hf, State.access_some, finish_error]

end

end Sys2Proof.Machine

namespace Sys2Proof.Proofs

open Machine

/-- Settles O28: each form is a checked access of n bytes, n > 0, and the lowest address its check refuses
is the first above 0xFFF or, for a store into a protected font, I itself. -/
theorem outOfRangeAccessesRaiseMemoryFault : Obligations.OutOfRangeAccessesRaiseMemoryFault := by
  unfold Obligations.OutOfRangeAccessesRaiseMemoryFault
  intro s x y n
  have hx : x.val + 1 ≠ 0 := Nat.succ_ne_zero x
  refine ⟨fun hlast => ?_, fun hlast => ⟨?_, ?_⟩, fun hn hend => ?_, fun hprotected hfont => ⟨?_, ?_⟩⟩
  · exact finish_access_of_eq_some
      (State.writeFaultAtI_outOfRange three_ne_zero (by decide) (Nat.succ_lt_succ hlast))
  · exact finish_access_of_eq_some
      (State.writeFaultAtI_outOfRange hx x.isLt (Nat.succ_lt_succ hlast))
  · exact finish_access_of_eq_some (State.readFaultAtI_outOfRange hx (Nat.succ_lt_succ hlast))
  · exact finish_access_of_eq_some
      (State.readFaultAtI_outOfRange (Fin.val_ne_zero_iff.mpr hn) hend)
  · exact finish_access_of_eq_some (State.writeFaultAtI_fontWrite three_ne_zero hprotected hfont)
  · exact finish_access_of_eq_some (State.writeFaultAtI_fontWrite hx hprotected hfont)

end Sys2Proof.Proofs

/-! ## Encoding and decoding (spec/30_encoding.md R91 to R98) -/

namespace Sys2Proof

/-- The round trip of each constructor, for every instruction (R94, R95). -/
theorem decode_encode : ∀ {i : Instr}, i.wellFormed = true → decode (encode i) = .ok i
  | .op00E0, h => Laws.RoundTrip.op00E0 h
  | .op00EE, h => Laws.RoundTrip.op00EE h
  | .op0NNN nnn, h => Laws.RoundTrip.op0NNN nnn h
  | .op1NNN nnn, h => Laws.RoundTrip.op1NNN nnn h
  | .op2NNN nnn, h => Laws.RoundTrip.op2NNN nnn h
  | .op3XNN x nn, h => Laws.RoundTrip.op3XNN x nn h
  | .op4XNN x nn, h => Laws.RoundTrip.op4XNN x nn h
  | .op5XY0 x y, h => Laws.RoundTrip.op5XY0 x y h
  | .op6XNN x nn, h => Laws.RoundTrip.op6XNN x nn h
  | .op7XNN x nn, h => Laws.RoundTrip.op7XNN x nn h
  | .op8XY0 x y, h => Laws.RoundTrip.op8XY0 x y h
  | .op8XY1 x y, h => Laws.RoundTrip.op8XY1 x y h
  | .op8XY2 x y, h => Laws.RoundTrip.op8XY2 x y h
  | .op8XY3 x y, h => Laws.RoundTrip.op8XY3 x y h
  | .op8XY4 x y, h => Laws.RoundTrip.op8XY4 x y h
  | .op8XY5 x y, h => Laws.RoundTrip.op8XY5 x y h
  | .op8XY6 x y, h => Laws.RoundTrip.op8XY6 x y h
  | .op8XY7 x y, h => Laws.RoundTrip.op8XY7 x y h
  | .op8XYE x y, h => Laws.RoundTrip.op8XYE x y h
  | .op9XY0 x y, h => Laws.RoundTrip.op9XY0 x y h
  | .opANNN nnn, h => Laws.RoundTrip.opANNN nnn h
  | .opBNNN nnn, h => Laws.RoundTrip.opBNNN nnn h
  | .opCXNN x nn, h => Laws.RoundTrip.opCXNN x nn h
  | .opDXYN x y n, h => Laws.RoundTrip.opDXYN x y n h
  | .opEX9E x, h => Laws.RoundTrip.opEX9E x h
  | .opEXA1 x, h => Laws.RoundTrip.opEXA1 x h
  | .opFX07 x, h => Laws.RoundTrip.opFX07 x h
  | .opFX0A x, h => Laws.RoundTrip.opFX0A x h
  | .opFX15 x, h => Laws.RoundTrip.opFX15 x h
  | .opFX18 x, h => Laws.RoundTrip.opFX18 x h
  | .opFX1E x, h => Laws.RoundTrip.opFX1E x h
  | .opFX29 x, h => Laws.RoundTrip.opFX29 x h
  | .opFX33 x, h => Laws.RoundTrip.opFX33 x h
  | .opFX55 x, h => Laws.RoundTrip.opFX55 x h
  | .opFX65 x, h => Laws.RoundTrip.opFX65 x h

/-- The two big-endian bytes of a word decode as the word does, and the rest is left (R69, R90). -/
theorem decodeBytes_of_decode {w : Word} {i : Instr} (h : decode w = .ok i) (rest : List Byte) :
    decodeBytes (highByte w :: lowByte w :: rest) = .ok (i, rest) := by
  rw [decodeBytes_cons, wordOfBytes_bytes, h]
  rfl

end Sys2Proof

namespace Sys2Proof.Proofs

/-- Settles O1: on words by the round trip of each constructor, on bytes because the two bytes of a word
give it back. -/
theorem decodeOfEncodeIsIdentity : Obligations.DecodeOfEncodeIsIdentity := by
  unfold Obligations.DecodeOfEncodeIsIdentity
  exact fun _ hwf => ⟨decode_encode hwf, decodeBytes_of_decode (decode_encode hwf)⟩

/-- Settles O5: each word is the encoding of its instruction. -/
theorem writtenOutWordsDecode : Obligations.WrittenOutWordsDecode := by
  unfold Obligations.WrittenOutWordsDecode
  exact ⟨decode_encode (i := .op00EE) rfl, decode_encode (i := .op2NNN 0xABC#12) rfl,
    decode_encode (i := .op3XNN 7 0xC1#8) rfl, decode_encode (i := .op8XY4 0xA 0x5) rfl,
    decode_encode (i := .opDXYN 1 2 0xF) rfl, decode_encode (i := .opEXA1 3) rfl,
    decode_encode (i := .opFX65 2) rfl⟩

end Sys2Proof.Proofs

/-! ### From a decoded word back to its encoding (R91, R93, R94) -/

namespace Sys2Proof

/-- What a decode result asks of the word w it came from: a decoded instruction is well-formed and encodes
to w. -/
def EncodesTo (w : Word) : Except DecodeError Instr → Prop
  | .ok i => i.wellFormed = true ∧ encode i = w
  | .error _ => True

section
variable {w : Word}

theorem EncodesTo.ok {i : Instr} (hwf : i.wellFormed = true) (henc : encode i = w) :
    EncodesTo w (.ok i) := ⟨hwf, henc⟩

theorem EncodesTo.error (e : DecodeError) : EncodesTo w (.error e) := trivial

/-- One test of the nested matches. -/
theorem EncodesTo.ite {c : Prop} [Decidable c] {r r' : Except DecodeError Instr}
    (hpos : c → EncodesTo w r) (hneg : ¬c → EncodesTo w r') : EncodesTo w (if c then r else r') := by
  split
  next hc => exact hpos hc
  next hc => exact hneg hc

theorem encodeNNN_eq_word {f : BitVec 4} (hf : fieldFamily w = f.toFin) :
    encodeNNN f (fieldNNN w) = w := by
  have hfields := encodeNNN_fields w
  rwa [hf] at hfields

theorem encodeXNN_eq_word {f : BitVec 4} (hf : fieldFamily w = f.toFin) {nn : Byte}
    (hnn : fieldNN w = nn) : encodeXNN f (fieldX w) nn = w := by
  have hfields := encodeXNN_fields w
  rwa [hf, hnn] at hfields

theorem encodeXYN_eq_word {f : BitVec 4} (hf : fieldFamily w = f.toFin) {n : Fin 16}
    (hn : fieldN w = n) : encodeXYN f (fieldX w) (fieldY w) n = w := by
  have hfields := encodeXYN_fields w
  rwa [hf, hn] at hfields

/-- The tests on the whole word leave a NNN that `0NNN` may carry (R95). -/
theorem decodeFamily0_encodesTo (hf : fieldFamily w = 0x0) : EncodesTo w (decodeFamily0 w) := by
  have henc : encodeNNN 0x0#4 (fieldNNN w) = w := encodeNNN_eq_word hf
  refine .ite (fun hclear => .ok rfl hclear.symm) fun hclear =>
    .ite (fun hret => .ok rfl hret.symm) fun hret => .ok ?_ henc
  have hne0 : fieldNNN w ≠ 0x0E0#12 := fun h => hclear (by rw [← henc, h]; rfl)
  have hneE : fieldNNN w ≠ 0x0EE#12 := fun h => hret (by rw [← henc, h]; rfl)
  simp [Instr.wellFormed, hne0, hneE]

theorem decodeFamilyXY0_encodesTo {i : Instr} (h : fieldN w = 0x0 → EncodesTo w (.ok i)) :
    EncodesTo w (decodeFamilyXY0 w i) :=
  .ite h fun _ => .error _

/-- The sub-opcode of family 0x8 is the N that the encoding fixes. -/
theorem decodeFamily8_encodesTo (hf : fieldFamily w = 0x8) : EncodesTo w (decodeFamily8 w) := by
  unfold decodeFamily8
  split
  case h_10 => exact .error _
  all_goals exact .ok rfl (encodeXYN_eq_word (f := 0x8#4) hf (Fin.ext ‹_›))

/-- The sub-opcode of family 0xE is the NN that the encoding fixes. -/
theorem decodeFamilyE_encodesTo (hf : fieldFamily w = 0xE) : EncodesTo w (decodeFamilyE w) :=
  .ite (fun hnn => .ok rfl (encodeXNN_eq_word hf hnn)) fun _ =>
  .ite (fun hnn => .ok rfl (encodeXNN_eq_word hf hnn)) fun _ => .error _

/-- The sub-opcode of family 0xF is the NN that the encoding fixes. -/
theorem decodeFamilyF_encodesTo (hf : fieldFamily w = 0xF) : EncodesTo w (decodeFamilyF w) := by
  iterate 9 refine .ite (fun hnn => .ok rfl (encodeXNN_eq_word (f := 0xF#4) hf hnn)) fun _ => ?_
  exact .error _

theorem decode_encodesTo (w : Word) : EncodesTo w (decode w) :=
  match hf : fieldFamily w with
  | 0x0 => decode_family0 hf ▸ decodeFamily0_encodesTo hf
  | 0x1 => decode_family1 hf ▸ .ok rfl (encodeNNN_eq_word hf)
  | 0x2 => decode_family2 hf ▸ .ok rfl (encodeNNN_eq_word hf)
  | 0x3 => decode_family3 hf ▸ .ok rfl (encodeXNN_eq_word hf rfl)
  | 0x4 => decode_family4 hf ▸ .ok rfl (encodeXNN_eq_word hf rfl)
  | 0x5 => decode_family5 hf ▸ decodeFamilyXY0_encodesTo fun hn => .ok rfl (encodeXYN_eq_word hf hn)
  | 0x6 => decode_family6 hf ▸ .ok rfl (encodeXNN_eq_word hf rfl)
  | 0x7 => decode_family7 hf ▸ .ok rfl (encodeXNN_eq_word hf rfl)
  | 0x8 => decode_family8 hf ▸ decodeFamily8_encodesTo hf
  | 0x9 => decode_family9 hf ▸ decodeFamilyXY0_encodesTo fun hn => .ok rfl (encodeXYN_eq_word hf hn)
  | 0xA => decode_familyA hf ▸ .ok rfl (encodeNNN_eq_word hf)
  | 0xB => decode_familyB hf ▸ .ok rfl (encodeNNN_eq_word hf)
  | 0xC => decode_familyC hf ▸ .ok rfl (encodeXNN_eq_word hf rfl)
  | 0xD => decode_familyD hf ▸ .ok rfl (encodeXYN_eq_word hf rfl)
  | 0xE => decode_familyE hf ▸ decodeFamilyE_encodesTo hf
  | 0xF => decode_familyF hf ▸ decodeFamilyF_encodesTo hf
  | ⟨_ + 16, hlt⟩ => absurd hlt (by omega)

end

end Sys2Proof

namespace Sys2Proof.Proofs

/-- Settles O2: by family; a word is made of its fields, and each sub-opcode that the decoder tests is the
one the encoding fixes. -/
theorem encodeOfDecodeIsIdentity : Obligations.EncodeOfDecodeIsIdentity := by
  unfold Obligations.EncodeOfDecodeIsIdentity
  intro w i h
  have hsound := decode_encodesTo w
  rwa [h] at hsound

end Sys2Proof.Proofs

/-! ### The nested matches against the flat table (R98) -/

namespace Sys2Proof

/-- The mnemonic of the first of some rows that a word matches: `flatDecode`, on any rows. -/
def lookup (w : Word) (rows : List TableRow) : Option String :=
  (rows.find? (rowMatches w)).map (·.mnemonic)

/-- The mnemonic of a decode result: `nestedDecode`, at any level of the nested matches. -/
def verdict : Except DecodeError Instr → Option String
  | .ok i => some i.mnemonic
  | .error _ => none

/-- The rows of one family. -/
def familyRows (f : Fin 16) : List TableRow := opcodeTable.filter (fieldFamily ·.pattern = f)

section
variable {w : Word}

theorem flatDecode_eq_lookup (w : Word) : flatDecode w = lookup w opcodeTable := rfl

theorem nestedDecode_eq_verdict (w : Word) : nestedDecode w = verdict (decode w) := rfl

theorem verdict_ok (i : Instr) : verdict (.ok i) = some i.mnemonic := rfl

theorem lookup_cons (r : TableRow) (rows : List TableRow) :
    lookup w (r :: rows) = if rowMatches w r then some r.mnemonic else lookup w rows := by
  rw [lookup, List.find?_cons]
  cases rowMatches w r <;> rfl

/-! #### A matching row is of the word's family -/

theorem mask_keeps_family : ∀ r ∈ opcodeTable, r.mask &&& 0xF000#16 = 0xF000#16 := by decide

theorem fieldFamily_and_mask (w : Word) : fieldFamily (w &&& 0xF000#16) = fieldFamily w := by
  have hlow : (w &&& 0xF000#16) &&& 0x0FFF#16 = 0#16 := by
    rw [BitVec.and_assoc]
    exact BitVec.and_zero
  exact ((mask_family w hlow).mp rfl).symm

theorem fieldFamily_eq_of_rowMatches {r : TableRow} (hr : r ∈ opcodeTable)
    (h : rowMatches w r = true) : fieldFamily r.pattern = fieldFamily w := by
  have hpattern : w &&& r.mask = r.pattern := by
    rw [rowMatches, Bool.and_eq_true, beq_iff_eq] at h
    exact h.1
  calc fieldFamily r.pattern
      = fieldFamily (w &&& (r.mask &&& 0xF000#16)) := by
        rw [← hpattern, ← BitVec.and_assoc, fieldFamily_and_mask]
    _ = fieldFamily w := by rw [mask_keeps_family r hr, fieldFamily_and_mask]

theorem lookup_opcodeTable (w : Word) :
    lookup w opcodeTable = lookup w (familyRows (fieldFamily w)) := by
  have hfind : ∀ r ∈ opcodeTable, rowMatches w r =
      decide (fieldFamily r.pattern = fieldFamily w ∧ rowMatches w r = true) := fun r hr => by
    simpa using fieldFamily_eq_of_rowMatches hr
  simp only [lookup, familyRows, List.find?_filter, decide_eq_true_eq]
  rw [List.find?_congr hfind]

/-! #### What matching a row of the word's family compares, by the row's mask -/

theorem rowMatches_word {m : String} {p : Word} :
    rowMatches w ⟨m, 0xFFFF#16, p, []⟩ = true ↔ w = p := by
  have hall : w &&& 0xFFFF#16 = w := BitVec.and_allOnes
  simp [rowMatches, hall]

theorem rowMatches_family {m : String} {p : Word} {ws : List Word} (hp : p &&& 0x0FFF#16 = 0#16)
    (hf : fieldFamily w = fieldFamily p) (hws : w ∉ ws) :
    rowMatches w ⟨m, 0xF000#16, p, ws⟩ = true := by
  simp [rowMatches, mask_family w hp, hf, hws]

theorem rowMatches_family_n {m : String} {p : Word} (hp : p &&& 0x0FF0#16 = 0#16)
    (hf : fieldFamily w = fieldFamily p) :
    rowMatches w ⟨m, 0xF00F#16, p, []⟩ = true ↔ fieldN w = fieldN p := by
  simp [rowMatches, mask_family_n w hp, hf]

theorem rowMatches_family_nn {m : String} {p : Word} (hp : p &&& 0x0F00#16 = 0#16)
    (hf : fieldFamily w = fieldFamily p) :
    rowMatches w ⟨m, 0xF0FF#16, p, []⟩ = true ↔ fieldNN w = fieldNN p := by
  simp [rowMatches, mask_family_nn w hp, hf]

/-! #### One test of the nested matches, against one row -/

section
variable {i : Instr} {row : TableRow} {rows : List TableRow}

theorem verdict_ok_eq_lookup (hmatch : rowMatches w row = true)
    (hname : i.mnemonic = row.mnemonic) : verdict (.ok i) = lookup w (row :: rows) := by
  rw [lookup_cons, if_pos hmatch, verdict_ok, hname]

theorem verdict_ite_eq_lookup {c : Prop} [Decidable c] {r : Except DecodeError Instr}
    (hmatch : rowMatches w row = true ↔ c) (hname : i.mnemonic = row.mnemonic)
    (hrest : ¬c → verdict r = lookup w rows) :
    verdict (if c then .ok i else r) = lookup w (row :: rows) := by
  by_cases hc : c
  · rw [if_pos hc]
    exact verdict_ok_eq_lookup (hmatch.mpr hc) hname
  · rw [if_neg hc, lookup_cons, if_neg (mt hmatch.mp hc), hrest hc]

end

/-! #### Each family's level against its rows -/

theorem verdict_decodeFamily0 (hf : fieldFamily w = 0x0) :
    verdict (decodeFamily0 w) = lookup w (familyRows 0x0) :=
  verdict_ite_eq_lookup rowMatches_word rfl fun hclear =>
  verdict_ite_eq_lookup rowMatches_word rfl fun hret =>
  verdict_ok_eq_lookup (rowMatches_family rfl hf (by simp [hclear, hret])) rfl

/-- The match of family 0x8 as the tests it makes in order. -/
theorem decodeFamily8_eq_ite : decodeFamily8 w =
    if fieldN w = 0x0 then .ok (.op8XY0 (fieldX w) (fieldY w))
    else if fieldN w = 0x1 then .ok (.op8XY1 (fieldX w) (fieldY w))
    else if fieldN w = 0x2 then .ok (.op8XY2 (fieldX w) (fieldY w))
    else if fieldN w = 0x3 then .ok (.op8XY3 (fieldX w) (fieldY w))
    else if fieldN w = 0x4 then .ok (.op8XY4 (fieldX w) (fieldY w))
    else if fieldN w = 0x5 then .ok (.op8XY5 (fieldX w) (fieldY w))
    else if fieldN w = 0x6 then .ok (.op8XY6 (fieldX w) (fieldY w))
    else if fieldN w = 0x7 then .ok (.op8XY7 (fieldX w) (fieldY w))
    else if fieldN w = 0xE then .ok (.op8XYE (fieldX w) (fieldY w))
    else .error (.invalidOpcode w) := by
  unfold decodeFamily8
  generalize fieldN w = n
  fin_cases n <;> rfl

theorem verdict_decodeFamily8 (hf : fieldFamily w = 0x8) :
    verdict (decodeFamily8 w) = lookup w (familyRows 0x8) := by
  rw [decodeFamily8_eq_ite]
  iterate 9 refine verdict_ite_eq_lookup (rowMatches_family_n rfl hf) rfl fun _ => ?_
  rfl

theorem verdict_decodeFamilyE (hf : fieldFamily w = 0xE) :
    verdict (decodeFamilyE w) = lookup w (familyRows 0xE) :=
  verdict_ite_eq_lookup (rowMatches_family_nn rfl hf) rfl fun _ =>
  verdict_ite_eq_lookup (rowMatches_family_nn rfl hf) rfl fun _ => rfl

theorem verdict_decodeFamilyF (hf : fieldFamily w = 0xF) :
    verdict (decodeFamilyF w) = lookup w (familyRows 0xF) := by
  iterate 9 refine verdict_ite_eq_lookup (rowMatches_family_nn rfl hf) rfl fun _ => ?_
  rfl

/-- A family without a second test has one row, which each of its words matches. -/
theorem verdict_eq_lookup_of_ok {i : Instr} {p : Word} (h : decode w = .ok i)
    (hp : p &&& 0x0FFF#16 = 0#16) (hf : fieldFamily w = fieldFamily p) :
    verdict (decode w) = lookup w [⟨i.mnemonic, 0xF000#16, p, []⟩] := by
  rw [h]
  exact verdict_ok_eq_lookup (rowMatches_family hp hf List.not_mem_nil) rfl

theorem verdict_decode (w : Word) : verdict (decode w) = lookup w (familyRows (fieldFamily w)) :=
  match hf : fieldFamily w with
  | 0x0 => decode_family0 hf ▸ verdict_decodeFamily0 hf
  | 0x1 => verdict_eq_lookup_of_ok (decode_family1 hf) rfl hf
  | 0x2 => verdict_eq_lookup_of_ok (decode_family2 hf) rfl hf
  | 0x3 => verdict_eq_lookup_of_ok (decode_family3 hf) rfl hf
  | 0x4 => verdict_eq_lookup_of_ok (decode_family4 hf) rfl hf
  | 0x5 => decode_family5 hf ▸
      verdict_ite_eq_lookup (rowMatches_family_n rfl hf) rfl fun _ => rfl
  | 0x6 => verdict_eq_lookup_of_ok (decode_family6 hf) rfl hf
  | 0x7 => verdict_eq_lookup_of_ok (decode_family7 hf) rfl hf
  | 0x8 => decode_family8 hf ▸ verdict_decodeFamily8 hf
  | 0x9 => decode_family9 hf ▸
      verdict_ite_eq_lookup (rowMatches_family_n rfl hf) rfl fun _ => rfl
  | 0xA => verdict_eq_lookup_of_ok (decode_familyA hf) rfl hf
  | 0xB => verdict_eq_lookup_of_ok (decode_familyB hf) rfl hf
  | 0xC => verdict_eq_lookup_of_ok (decode_familyC hf) rfl hf
  | 0xD => verdict_eq_lookup_of_ok (decode_familyD hf) rfl hf
  | 0xE => decode_familyE hf ▸ verdict_decodeFamilyE hf
  | 0xF => decode_familyF hf ▸ verdict_decodeFamilyF hf
  | ⟨_ + 16, hlt⟩ => absurd hlt (by omega)

end

end Sys2Proof

namespace Sys2Proof.Proofs

/-- Settles O3: a word can only match the rows of its family, and these compare, in the order of the nested
tests, the field that each test reads. -/
theorem nestedAndFlatDecodersAgree : Obligations.NestedAndFlatDecodersAgree := by
  unfold Obligations.NestedAndFlatDecodersAgree
  intro w
  rw [nestedDecode_eq_verdict, flatDecode_eq_lookup, lookup_opcodeTable, verdict_decode]

end Sys2Proof.Proofs

/-! ### The illegal words (R96) -/

namespace Sys2Proof

section
variable {w : Word}

theorem decodeFamily0_ne_error (e : DecodeError) : decodeFamily0 w ≠ .error e := by
  unfold decodeFamily0
  split_ifs <;> nofun

theorem decodeFamilyXY0_eq_invalidOpcode {i : Instr} :
    decodeFamilyXY0 w i = .error (.invalidOpcode w) ↔ fieldN w ≠ 0x0 := by
  simp [decodeFamilyXY0]

theorem decodeFamily8_eq_invalidOpcode : decodeFamily8 w = .error (.invalidOpcode w) ↔
    fieldN w ∈ ([0x8, 0x9, 0xA, 0xB, 0xC, 0xD, 0xF] : List (Fin 16)) := by
  unfold decodeFamily8
  generalize fieldN w = n
  fin_cases n <;> simp

theorem decodeFamilyE_eq_invalidOpcode :
    decodeFamilyE w = .error (.invalidOpcode w) ↔ fieldNN w ∉ [0x9E#8, 0xA1#8] := by
  simp [decodeFamilyE, ite_eq_iff]

theorem decodeFamilyF_eq_invalidOpcode : decodeFamilyF w = .error (.invalidOpcode w) ↔
    fieldNN w ∉ [0x07#8, 0x0A#8, 0x15#8, 0x18#8, 0x1E#8, 0x29#8, 0x33#8, 0x55#8, 0x65#8] := by
  simp [decodeFamilyF, ite_eq_iff]

end

end Sys2Proof

namespace Sys2Proof.Proofs

/-- Settles O4: by family; the families with a second test refuse exactly what their tests leave. -/
theorem illegalWordsAreTheListedOnes : Obligations.IllegalWordsAreTheListedOnes := by
  unfold Obligations.IllegalWordsAreTheListedOnes
  intro w
  match hf : fieldFamily w with
  | 0x0 => simp [decode_family0 hf, decodeFamily0_ne_error]
  | 0x1 => simp [decode_family1 hf]
  | 0x2 => simp [decode_family2 hf]
  | 0x3 => simp [decode_family3 hf]
  | 0x4 => simp [decode_family4 hf]
  | 0x5 => simp [decode_family5 hf, decodeFamilyXY0_eq_invalidOpcode]
  | 0x6 => simp [decode_family6 hf]
  | 0x7 => simp [decode_family7 hf]
  | 0x8 => simp [decode_family8 hf, decodeFamily8_eq_invalidOpcode]
  | 0x9 => simp [decode_family9 hf, decodeFamilyXY0_eq_invalidOpcode]
  | 0xA => simp [decode_familyA hf]
  | 0xB => simp [decode_familyB hf]
  | 0xC => simp [decode_familyC hf]
  | 0xD => simp [decode_familyD hf]
  | 0xE => simp [decode_familyE hf, decodeFamilyE_eq_invalidOpcode]
  | 0xF => simp [decode_familyF hf, decodeFamilyF_eq_invalidOpcode]
  | ⟨_ + 16, hlt⟩ => exact absurd hlt (by omega)

end Sys2Proof.Proofs

/-! ## The instruction step and its place in a batch (R120 to R125, R281) -/

namespace Sys2Proof.Machine

section
variable {s t u : State} {w : Word} {i : Instr}

/-! ### Fetch, advance, decode: one equation per case -/

/-- A fetch above 0xFFE fails at the lower of PC and PC + 1 that is above 0xFFF (R120, decision D4). -/
theorem State.fetch_outOfRange (hpc : 0xFFE < s.pc.toNat) :
    s.fetch = .error (.memoryFault none s.pc (max 0x1000 s.pc.toNat) .outOfRange) := by
  have hfault : firstFault readFault s.pc.toNat 2 = some (max 0x1000 s.pc.toNat, .outOfRange) :=
    firstFault_eq_outOfRange two_ne_zero (by omega) (fun _ hy => if_pos hy)
      (fun _ _ hy => if_neg (Nat.not_lt.mpr hy))
  rw [State.fetch, hfault]

/-- After the advance, the fetch address is the old PC (R121). -/
@[simp] theorem State.fetchAddr_advance (s : State) : s.advance.fetchAddr = s.pc :=
  BitVec.add_sub_cancel s.pc 2#16

theorem executeInstruction_of_fetch_error {e : EngineError} (hfetch : s.fetch = .error e) :
    executeInstruction s = .next (s.raiseError e) := by
  rw [executeInstruction, hfetch]

theorem executeInstruction_of_decode_error {e : DecodeError} (hfetch : s.fetch = .ok w)
    (hdecode : decode w = .error e) :
    executeInstruction s = .next (s.advance.raiseError (.invalidOpcode w s.pc)) := by
  simp only [executeInstruction, hfetch, hdecode, State.fetchAddr_advance]

theorem executeInstruction_of_decode_ok (hfetch : s.fetch = .ok w) (hdecode : decode w = .ok i) :
    executeInstruction s = exec i s.advance := by
  simp only [executeInstruction, hfetch, hdecode]

/-! ### What follows an instruction: one equation per case (R281) -/

theorem State.afterInstruction_of_error (herr : s.error ≠ none) :
    s.afterInstruction = { s with batchLeft := 0 } := by
  simp [State.afterInstruction, Option.isSome_iff_ne_none, herr]

theorem State.afterInstruction_of_wait (herr : s.error = none) (hexit : s.exitRequested = false)
    (hwait : s.wait ≠ none) : s.afterInstruction = { s with
      snapshot := ⟨s.toMachineState, true⟩, batchLeft := 0, phase := .pacing } := by
  have hwait : s.wait.isSome = true := Option.isSome_iff_ne_none.mpr hwait
  simp [State.afterInstruction, State.publish, herr, hexit, hwait]

theorem State.afterInstruction_of_enabled (h : s.enabled = true) : s.afterInstruction = s := by
  obtain ⟨herr, hexit, hwait⟩ := State.enabled_iff.mp h
  simp [State.afterInstruction, herr, hexit, hwait]

/-! ### The step inside a batch with an instruction left -/

theorem step_batch_refused (hphase : s.phase = .batch) (hleft : s.batchLeft ≠ 0)
    (hdisabled : s.enabled = false) : step s = .refused .stepNotEnabled := by
  rw [step_batch hphase, State.batchStep, if_neg hleft, hdisabled]
  rfl

section
variable {n : Nat} (hphase : s.phase = .batch) (hleft : s.batchLeft = n + 1)
  (henabled : s.enabled = true)
include hphase hleft henabled

/-- The step is the instruction step, the instruction counted off before it runs, then what follows it. -/
theorem step_batch_of_next (hu : executeInstruction { s with batchLeft := n } = .next u) :
    step s = .next u.afterInstruction := by
  rw [step_batch hphase, State.batchStep, if_neg (by omega), if_pos henabled, hleft,
    Nat.add_sub_cancel, hu]
  rfl

/-- An error raised where there was none ends the batch. -/
theorem step_batch_of_raise {e : EngineError} (hnone : u.error = none)
    (hu : executeInstruction { s with batchLeft := n } = .next (u.raiseError e)) :
    step s = .next { u with error := some e, batchLeft := 0 } := by
  rw [step_batch_of_next hphase hleft henabled hu, State.afterInstruction_of_error (by simp),
    State.raiseError_of_none hnone]

end

end

end Sys2Proof.Machine

namespace Sys2Proof.Proofs

open Machine

/-- Settles O9: the fetch fails before the advance, and the error ends the batch. -/
theorem fetchBeyondMemoryFaults : Obligations.FetchBeyondMemoryFaults := by
  unfold Obligations.FetchBeyondMemoryFaults
  intro s hpc
  refine ⟨executeInstruction_of_fetch_error (State.fetch_outOfRange hpc),
    fun hphase hleft henabled => ?_⟩
  obtain ⟨n, hn⟩ := Nat.exists_eq_succ_of_ne_zero hleft
  obtain ⟨hnone, -, -⟩ := State.enabled_iff.mp henabled
  exact step_batch_of_raise (u := { s with batchLeft := n }) hphase hn henabled hnone
    (executeInstruction_of_fetch_error (State.fetch_outOfRange hpc))

/-- Settles O10: the fetch and the decode give the instruction, and what follows it is chosen by the error
register and the key wait; an exit request is none of an instruction's writes. -/
theorem stepRunsTheDecodedInstruction : Obligations.StepRunsTheDecodedInstruction := by
  unfold Obligations.StepRunsTheDecodedInstruction
  intro s t n i hphase hleft henabled hpc hdecode hexec
  have hexit : t.exitRequested = false := by
    obtain ⟨-, hexit, -⟩ := State.enabled_iff.mp henabled
    exact (congrArg (·.exitRequested) (exec_frame hexec)).trans hexit
  have hfetch : State.fetch { s with batchLeft := n } = .ok _ := State.fetch_eq_ok.mpr ⟨hpc, rfl⟩
  have hstep : step s = .next t.afterInstruction :=
    step_batch_of_next hphase hleft henabled
      ((executeInstruction_of_decode_ok hfetch hdecode).trans hexec)
  rw [hstep]
  refine ⟨hexit, fun herr hwait => ?_, fun herr => ?_, fun herr hwait => ?_⟩
  · rw [State.afterInstruction_of_enabled (State.enabled_iff.mpr ⟨herr, hexit, hwait⟩)]
  · rw [State.afterInstruction_of_error herr]
  · rw [State.afterInstruction_of_wait herr hexit hwait]

/-- Settles O11: the decode fails after the advance, and the error ends the batch. -/
theorem stepOnIllegalWordRaisesInvalidOpcode :
    Obligations.StepOnIllegalWordRaisesInvalidOpcode := by
  unfold Obligations.StepOnIllegalWordRaisesInvalidOpcode
  intro s w hphase hleft henabled hpc hword hdecode
  obtain ⟨n, hn⟩ := Nat.exists_eq_succ_of_ne_zero hleft
  obtain ⟨hnone, -, -⟩ := State.enabled_iff.mp henabled
  have hfetch : State.fetch { s with batchLeft := n } = .ok w := State.fetch_eq_ok.mpr ⟨hpc, hword⟩
  exact step_batch_of_raise (u := State.advance { s with batchLeft := n }) hphase hn henabled hnone
    (executeInstruction_of_decode_error hfetch hdecode)

/-- Settles O12: the batch's own test of R125 refuses. -/
theorem stepOutsideEnabledBatchIsRefused : Obligations.StepOutsideEnabledBatchIsRefused := by
  unfold Obligations.StepOutsideEnabledBatchIsRefused
  exact fun _ => step_batch_refused

end Sys2Proof.Proofs

/-! ## Precise errors (R126, R321) -/

namespace Sys2Proof.Machine

section
variable {s t : State}

/-- An instruction that ends by `finish` is precise if the state it computes has the error register of the
entry state. -/
theorem finish_precise {r : Except EngineError State} (h : finish s r = .next t)
    (hok : ∀ u, r = .ok u → u.error = s.error) (herr : t.error ≠ s.error) :
    ∃ e, t = s.raiseError e := by
  rcases finish_eq_next h with hr | ⟨e, -, ht⟩
  · exact absurd (hok t hr) herr
  · exact ⟨e, ht⟩

/-- So is a checked access that leaves the error register. -/
theorem finish_access_precise {u : State} {i : Instr} {f : Option (Nat × FaultKind)}
    (h : finish s (s.access i f u) = .next t) (hu : u.error = s.error) (herr : t.error ≠ s.error) :
    ∃ e, t = s.raiseError e := by
  rcases finish_access_eq_next h with ⟨-, rfl⟩ | ⟨a, k, -, ht⟩
  · exact absurd hu herr
  · exact ⟨_, ht⟩

theorem finish_skipIfKey_precise {i : Instr} {x : Reg} {wanted : Bool}
    (h : finish s (s.skipIfKey i x wanted) = .next t) (herr : t.error ≠ s.error) :
    ∃ e, t = s.raiseError e := by
  refine finish_precise h (fun u hu => ?_) herr
  obtain ⟨k, -, rfl⟩ := State.skipIfKey_eq_ok hu
  rw [State.skipIf_eq]

/-- Every raise of an instruction comes before its first write: the arms that can take an error by their
shared operation, and no other arm writes the error register. -/
theorem exec_precise {i : Instr} (h : exec i s = .next t) (herr : t.error ≠ s.error) :
    ∃ e, t = s.raiseError e := by
  have hw := exec_writesOnlyNamed h
  cases i with
  | op00EE =>
    refine finish_precise h (fun u hu => ?_) herr
    obtain ⟨top, rest, -, rfl⟩ := State.popToPc_eq_ok hu
    rfl
  | op2NNN =>
    rcases exec2NNN_eq_next h with ⟨-, rfl⟩ | ht
    · exact absurd rfl herr
    · exact ⟨_, ht⟩
  | opEX9E | opEXA1 => exact finish_skipIfKey_precise h herr
  | opFX1E =>
    refine finish_precise h (fun u hu => ?_) herr
    obtain ⟨-, rfl⟩ := State.addToI_eq_ok hu
    rfl
  | opDXYN | opFX33 | opFX55 | opFX65 => exact finish_access_precise h rfl herr
  | _ => exact absurd (congrArg (·.error) hw) herr

end

end Sys2Proof.Machine

namespace Sys2Proof.Proofs

open Machine

/-- Settles O51: the error register changed, so the instruction ended by raising its error in the state it
was entered with. -/
theorem instructionErrorsArePrecise : Obligations.InstructionErrorsArePrecise := by
  unfold Obligations.InstructionErrorsArePrecise
  intro i s t e hnone hexec he
  obtain ⟨e', rfl⟩ := exec_precise hexec (by simp [hnone, he])
  rw [State.raiseError_of_none hnone] at he ⊢
  obtain rfl : e' = e := Option.some.inj he
  rfl

end Sys2Proof.Proofs

/-! ## Reachable states (R8, R125, R288) -/

namespace Sys2Proof.Machine

/-! ### An instruction always answers a next state (R324) -/

theorem finish_total (s : State) (r : Except EngineError State) : ∃ t, finish s r = .next t := by
  cases r with
  | ok u => exact ⟨u, finish_ok⟩
  | error e => exact ⟨s.raiseError e, finish_error e⟩

/-- The arms that can take an error end by `finish`; each other arm is a next state. -/
theorem exec_total (i : Instr) (s : State) : ∃ t, exec i s = .next t := by
  cases i with
  | op00EE | op2NNN | opDXYN | opEX9E | opEXA1 | opFX1E | opFX33 | opFX55 | opFX65 =>
    exact finish_total s _
  | _ => exact ⟨_, rfl⟩

theorem executeInstruction_total (s : State) : ∃ t, executeInstruction s = .next t := by
  cases hfetch : s.fetch with
  | error e => exact ⟨_, executeInstruction_of_fetch_error hfetch⟩
  | ok w =>
    cases hdecode : decode w with
    | error e => exact ⟨_, executeInstruction_of_decode_error hfetch hdecode⟩
    | ok i =>
      rw [executeInstruction_of_decode_ok hfetch hdecode]
      exact exec_total i s.advance

section
variable {s t : State}

/-- Under the scheduler's part of the invariant no step is refused: the loop goes on until it has
terminated, by `Exit`. -/
theorem SchedulerInv.progress (h : SchedulerInv s) :
    (∃ t, step s = .next t) ∨
      (step s = .fault .loopTerminated ∧ s.phase = .terminated ∧ s.exitRequested = true) := by
  cases hphase : s.phase with
  | iterationStart => exact .inl ⟨_, step_iterationStart hphase⟩
  | draining => exact .inl ⟨_, step_draining hphase⟩
  | deciding => exact .inl ⟨_, step_deciding hphase⟩
  | batch =>
    left
    cases hleft : s.batchLeft with
    | zero => exact ⟨s.endOfFrame, by rw [step_batch hphase, State.batchStep, if_pos hleft]⟩
    | succ n =>
      obtain ⟨u, hu⟩ := executeInstruction_total { s with batchLeft := n }
      exact ⟨_, step_batch_of_next hphase hleft (h.batchEnabled hphase (by omega)) hu⟩
  | pacing => exact .inl ⟨_, step_pacing hphase⟩
  | terminated => exact .inr ⟨step_terminated hphase, rfl, h.terminatedByExit hphase⟩

/-! ### Each transition keeps the invariant -/

/-- A fresh engine meets the invariant: nothing written, an empty call stack, the loop about to start
(R350). -/
theorem Inv.construct (c : Config) : Inv (State.construct c) where
  memory := ⟨⟨.nil, nofun⟩, nofun, fun _ => nofun⟩
  grid := Framebuffer.wf_blank _ _
  pc := ⟨(by decide : (0x0200#16).toNat ≤ 0x10FE), nofun⟩
  stack := fun n _ => Nat.zero_le n
  scheduler := .of_phase nofun nofun
  errors := .of_snapshot rfl
  rom := ⟨rfl, nofun⟩

/-- t is s but for what the outside world writes between two steps: the FIFO and the host ports. -/
def InputFrame (s t : State) : Prop :=
  t = { s with cmdFifo := t.cmdFifo, randIn := t.randIn, clockIn := t.clockIn,
               sleepOut := t.sleepOut, romRead := t.romRead }

/-- No part of the invariant speaks of the FIFO or of a port. -/
theorem Inv.of_inputFrame (h : Inv s) (hframe : InputFrame s t) : Inv t := by
  obtain ⟨henabled, hwait, hterm⟩ := h.scheduler
  obtain ⟨hshown, hdrain⟩ := h.errors
  rw [hframe]
  exact h.data.inv_of_keepsData rfl ⟨henabled, hwait, hterm⟩ ⟨hshown, hdrain⟩

/-- Everything an enqueue can do when the producer has a step (R260). -/
theorem State.enqueue_eq_some {c : Command} (h : s.enqueue c = some t) :
    t = { s with cmdFifo := s.cmdFifo ++ [c] } := by
  unfold State.enqueue at h
  split at h
  · cases h
  · injection h with h; exact h.symm

/-- A replaced engine is a fresh one (R289). -/
theorem State.replaceEngine_eq_some {c : Config} (h : s.replaceEngine c = some t) :
    t = State.construct c := by
  unfold State.replaceEngine at h
  split at h
  · injection h with h; exact h.symm
  · cases h

theorem Transition.inv (htrans : Transition s t) (h : Inv s) : Inv t := by
  cases htrans with
  | step ht => exact step_inv h ht
  | enqueue c ht => obtain rfl := State.enqueue_eq_some ht; exact h.of_inputFrame rfl
  | supplyRand | supplyClock | supplySlept | supplyRom => exact h.of_inputFrame rfl
  | replaceEngine c ht => obtain rfl := State.replaceEngine_eq_some ht; exact .construct c

theorem Reachable.inv (hreach : Reachable s) : Inv s := by
  induction hreach with
  | construct c => exact .construct c
  | transition _ htrans ih => exact htrans.inv ih

end

end Sys2Proof.Machine

namespace Sys2Proof.Proofs

/-- Settles O60: construction meets the invariant, each transition keeps it, and under it no step is
refused. -/
theorem reachableStatesAreSafe : Obligations.ReachableStatesAreSafe := by
  unfold Obligations.ReachableStatesAreSafe
  exact fun _ hreach => ⟨hreach.inv, hreach.inv.scheduler.progress⟩

end Sys2Proof.Proofs

/-! ## Control flow (spec/41_control_flow.md R140 to R151) -/

namespace Sys2Proof

/-- What the tests on the whole word leave of family 0 is `0NNN` (R95). -/
theorem decodeFamily0_of_ne {w : Word} (hclear : w ≠ 0x00E0#16) (hret : w ≠ 0x00EE#16) :
    decodeFamily0 w = .ok (.op0NNN (fieldNNN w)) := by
  rw [decodeFamily0, if_neg hclear, if_neg hret]

end Sys2Proof

namespace Sys2Proof.Machine

section
variable {s : State}

/-! ### Targets: NNN exactly, and the sum of R147 without a carry out of 16 bits -/

theorem addressNNN_toNat (nnn : BitVec 12) : (addressNNN nnn).toNat = nnn.toNat :=
  BitVec.toNat_setWidth_of_le (by decide)

theorem State.addressPlusV0_toNat (s : State) (nnn : BitVec 12) :
    (s.addressPlusV0 nnn).toNat = nnn.toNat + (s.readV 0).toNat := by
  rw [State.addressPlusV0, BitVec.toNat_add, addressNNN_toNat, BitVec.toNat_setWidth]
  omega

/-! ### The call, one equation per case (R146) -/

/-- The stack is full exactly at a finite depth that it has reached (R142). -/
theorem State.stackFull_iff :
    s.stackFull = true ↔ s.config.stackDepth = some s.callStack.length := by
  unfold State.stackFull
  cases s.config.stackDepth with
  | none => simp
  | some n => exact beq_iff_eq.trans (eq_comm.trans Option.some_inj.symm)

theorem exec_op2NNN_of_room (hroom : s.stackFull = false) (nnn : BitVec 12) :
    exec (.op2NNN nnn) s
      = .next { s with pc := addressNNN nnn, callStack := s.callStack ++ [s.pc] } := by
  rw [exec, exec2NNN, State.push_of_room hroom]
  rfl

theorem exec_op2NNN_of_full (hfull : s.stackFull = true) (nnn : BitVec 12) :
    exec (.op2NNN nnn) s = .next (s.raiseError (.stackOverflow s.fetchAddr)) := by
  rw [exec, exec2NNN, State.push_of_full hfull]
  rfl

/-! ### Skips (R141) -/

/-- A skip on a test adds 2 to PC exactly under the proposition that the test decides. -/
theorem State.skipIf_of_iff {b : Bool} {c : Prop} [Decidable c] (h : b = true ↔ c) :
    s.skipIf b = { s with pc := if c then s.pc + 2#16 else s.pc } := by
  rw [State.skipIf_eq, if_congr h rfl rfl]

end

end Sys2Proof.Machine

namespace Sys2Proof.Proofs

open Machine

/-- Settles O6: family 0 is decoded by the whole word, and `0NNN` does nothing. -/
theorem familyZeroIsClearReturnOrNoOp : Obligations.FamilyZeroIsClearReturnOrNoOp := by
  unfold Obligations.FamilyZeroIsClearReturnOrNoOp
  refine ⟨rfl, rfl, fun w hf hclear hret => ?_, fun nnn s => rfl⟩
  rw [decode_family0 hf, decodeFamily0_of_ne hclear hret]

/-- Settles O13: a pop gives the top, and on an empty stack its error, which the clear register takes. -/
theorem returnPopsTheCallStack : Obligations.ReturnPopsTheCallStack := by
  unfold Obligations.ReturnPopsTheCallStack
  refine ⟨fun s rest a hstack => ?_, fun s hempty hnone => ?_⟩
  · rw [exec, exec00EE, State.popToPc_of_concat hstack, finish_ok]
  · rw [exec, exec00EE, State.popToPc_of_empty hempty, finish_error, State.raiseError_of_none hnone]

/-- Settles O14: both jumps are one write of PC, whose value does not wrap. -/
theorem jumpsSetThePc : Obligations.JumpsSetThePc := by
  unfold Obligations.JumpsSetThePc
  exact fun s nnn => ⟨⟨_, rfl, rfl, addressNNN_toNat nnn⟩, ⟨_, rfl, rfl, s.addressPlusV0_toNat nnn⟩⟩

/-- Settles O15: by the test of `push`. -/
theorem callPushesTheAdvancedPc : Obligations.CallPushesTheAdvancedPc := by
  unfold Obligations.CallPushesTheAdvancedPc
  refine fun s nnn => ⟨fun hdepth => ?_, fun hdepth => ?_⟩
  · have hroom : s.stackFull = false := Bool.eq_false_iff.mpr fun hfull =>
      hdepth _ (State.stackFull_iff.mp hfull) rfl
    exact ⟨_, exec_op2NNN_of_room hroom nnn, rfl, addressNNN_toNat nnn, rfl⟩
  · exact exec_op2NNN_of_full (State.stackFull_iff.mpr hdepth) nnn

/-- Settles O16: each of the four is a skip on the test of its condition. -/
theorem registerSkipsFollowTheirCondition : Obligations.RegisterSkipsFollowTheirCondition := by
  unfold Obligations.RegisterSkipsFollowTheirCondition
  exact fun s x y nn =>
    ⟨congrArg Host.Outcome.next (State.skipIf_of_iff beq_iff_eq),
      congrArg Host.Outcome.next (State.skipIf_of_iff bne_iff_ne),
      congrArg Host.Outcome.next (State.skipIf_of_iff beq_iff_eq),
      congrArg Host.Outcome.next (State.skipIf_of_iff bne_iff_ne)⟩

end Sys2Proof.Proofs

/-! ## ALU (spec/42_alu.md R170 to R184) -/

namespace Sys2Proof.Machine

section
variable {a b : Byte}

/-! ### Results and flags, by their values -/

theorem addWrap_toNat : (addWrap a b).toNat = (a.toNat + b.toNat) % 256 :=
  BitVec.toNat_ofNat _ 8

theorem subWrap_eq_sub : subWrap a b = a - b := by
  apply BitVec.eq_of_toNat_eq
  rw [subWrap, BitVec.toNat_ofNat, BitVec.toNat_sub]
  have := b.isLt
  omega

/-- A flag byte on a test is 1 exactly under the proposition that the test decides. -/
theorem flagByte_of_iff {t : Bool} {c : Prop} [Decidable c] (h : t = true ↔ c) :
    flagByte t = if c then 1#8 else 0#8 :=
  if_congr h rfl rfl

theorem carryOut_iff : carryOut a b = true ↔ 255 < a.toNat + b.toNat := decide_eq_true_iff

theorem noBorrow_iff : noBorrow a b = true ↔ b ≤ a := decide_eq_true_iff

theorem shiftRight1_toNat : (shiftRight1 a).toNat = a.toNat / 2 := by
  rw [shiftRight1, BitVec.toNat_ushiftRight, Nat.shiftRight_eq_div_pow, pow_one]

theorem outBitRight_toNat : (outBitRight a).toNat = a.toNat % 2 := by
  rw [outBitRight, BitVec.toNat_and]
  exact Nat.and_one_is_mod _

theorem shiftLeft1_toNat : (shiftLeft1 a).toNat = 2 * a.toNat % 256 := by
  rw [shiftLeft1, BitVec.toNat_shiftLeft, Nat.shiftLeft_eq, pow_one, mul_comm]

theorem outBitLeft_toNat : (outBitLeft a).toNat = a.toNat / 128 := by
  have hbit : (outBitLeft a).toNat = a.toNat / 2 ^ 7 % 2 := by
    rw [outBitLeft, BitVec.toNat_and, BitVec.toNat_ushiftRight, Nat.shiftRight_eq_div_pow]
    exact Nat.and_one_is_mod _
  have := a.isLt
  omega

end

section
variable {i : Instr} {s : State} {x y : Reg} {b result flag : Byte} {outBit shift : Byte → Byte}

/-! ### What an instruction that ends in a shared write of registers leaves (R170, R179, R181) -/

theorem exec_setV_leaves (h : exec i s = .next (s.setV x b)) :
    ∃ t, exec i s = .next t ∧ t = { s with v := t.v } ∧ t.readV x = b ∧
      ∀ r, r ≠ x → t.readV r = s.readV r :=
  ⟨_, h, rfl, s.readV_setV_self x b, fun r => s.readV_setV_of_ne x r b⟩

theorem exec_resultThenFlag_leaves (h : exec i s = .next (s.resultThenFlag x result flag)) :
    ∃ t, exec i s = .next t ∧ t = { s with v := t.v } ∧ t.readV 15 = flag ∧
      (x ≠ 15 → t.readV x = result) ∧ ∀ r, r ≠ x → r ≠ 15 → t.readV r = s.readV r := by
  refine ⟨_, h, s.resultThenFlag_eq x result flag, ?_, fun hx => ?_, fun r hrx hr15 => ?_⟩
  · rw [State.readV_resultThenFlag, if_pos rfl]
  · rw [State.readV_resultThenFlag, if_neg hx, if_pos rfl]
  · rw [State.readV_resultThenFlag, if_neg hr15, if_neg hrx]

theorem exec_outBitThenShift_leaves (h : exec i s = .next (s.outBitThenShift x outBit shift)) :
    ∃ t, exec i s = .next t ∧ t = { s with v := t.v } ∧
      (x ≠ 15 → t.readV x = shift (s.readV x) ∧ t.readV 15 = outBit (s.readV x)) ∧
      (x = 15 → t.readV 15 = shift (outBit (s.readV 15))) ∧
      ∀ r, r ≠ x → r ≠ 15 → t.readV r = s.readV r := by
  refine ⟨_, h, s.outBitThenShift_eq x outBit shift, fun hx => ⟨?_, ?_⟩, ?_, fun r hrx hr15 => ?_⟩
  · rw [State.readV_outBitThenShift, if_pos rfl, if_neg hx]
  · rw [State.readV_outBitThenShift, if_neg (Ne.symm hx), if_pos rfl]
  · rintro rfl
    rw [State.readV_outBitThenShift, if_pos rfl, if_pos rfl]
  · rw [State.readV_outBitThenShift, if_neg hrx, if_neg hr15]

/-! ### The flagged arithmetic, with the flag's condition written out (R177, R178, R180) -/

theorem exec_op8XY4 : exec (.op8XY4 x y) s
    = .next (s.resultThenFlag x (addWrap (s.readV x) (s.readV y))
        (if 255 < (s.readV x).toNat + (s.readV y).toNat then 1#8 else 0#8)) := by
  rw [exec, exec8XY4, flagByte_of_iff carryOut_iff]

theorem exec_op8XY5 : exec (.op8XY5 x y) s
    = .next (s.resultThenFlag x (s.readV x - s.readV y)
        (if s.readV y ≤ s.readV x then 1#8 else 0#8)) := by
  rw [exec, exec8XY5, subWrap_eq_sub, flagByte_of_iff noBorrow_iff]

theorem exec_op8XY7 : exec (.op8XY7 x y) s
    = .next (s.resultThenFlag x (s.readV y - s.readV x)
        (if s.readV x ≤ s.readV y then 1#8 else 0#8)) := by
  rw [exec, exec8XY7, subWrap_eq_sub, flagByte_of_iff noBorrow_iff]

end

end Sys2Proof.Machine

namespace Sys2Proof.Proofs

open Machine

/-- Settles O17: each of the three is one write of VX. -/
theorem loadAddCopyWriteOnlyVX : Obligations.LoadAddCopyWriteOnlyVX := by
  unfold Obligations.LoadAddCopyWriteOnlyVX
  refine fun s x y nn => ⟨exec_setV_leaves rfl, ?_, exec_setV_leaves rfl⟩
  obtain ⟨t, hexec, hframe, hsum, hothers⟩ :=
    exec_setV_leaves (show exec (.op7XNN x nn) s = .next (s.setV x (addWrap (s.readV x) nn)) from rfl)
  exact ⟨t, hexec, hframe, by rw [hsum, addWrap_toNat], hothers⟩

/-- Settles O18: each of the three writes its result, then 0 to VF. -/
theorem logicResetsVF : Obligations.LogicResetsVF := by
  unfold Obligations.LogicResetsVF
  exact fun s x y => ⟨exec_resultThenFlag_leaves rfl, exec_resultThenFlag_leaves rfl,
    exec_resultThenFlag_leaves rfl⟩

/-- Settles O19: the sum, then the carry to VF. -/
theorem addSetsCarry : Obligations.AddSetsCarry := by
  unfold Obligations.AddSetsCarry
  intro s x y
  obtain ⟨t, hexec, hframe, hcarry, hsum, hothers⟩ :=
    exec_resultThenFlag_leaves (exec_op8XY4 (s := s) (x := x) (y := y))
  exact ⟨t, hexec, hframe, hcarry, fun hx => by rw [hsum hx, addWrap_toNat], hothers⟩

/-- Settles O20: the difference, then no-borrow to VF. -/
theorem subtractSetsNoBorrow : Obligations.SubtractSetsNoBorrow := by
  unfold Obligations.SubtractSetsNoBorrow
  exact fun s x y =>
    ⟨exec_resultThenFlag_leaves exec_op8XY5, exec_resultThenFlag_leaves exec_op8XY7⟩

/-- Settles O21: the out-bit to VF, then the shift of VX as it then stands; when X = F that is the shift
of the out-bit, which is at most 1. -/
theorem shiftsMoveOneBitIntoVF : Obligations.ShiftsMoveOneBitIntoVF := by
  unfold Obligations.ShiftsMoveOneBitIntoVF
  intro s x y
  constructor
  · obtain ⟨t, hexec, hframe, hdistinct, hflag, hothers⟩ := exec_outBitThenShift_leaves
      (show exec (.op8XY6 x y) s = .next (s.outBitThenShift x outBitRight shiftRight1) from rfl)
    refine ⟨t, hexec, hframe, fun hx => ?_, fun hx => ?_, hothers⟩
    · obtain ⟨hshift, hout⟩ := hdistinct hx
      exact ⟨by rw [hshift, shiftRight1_toNat], by rw [hout, outBitRight_toNat]⟩
    · apply BitVec.eq_of_toNat_eq
      rw [hflag hx, shiftRight1_toNat, outBitRight_toNat, BitVec.toNat_zero]
      omega
  · obtain ⟨t, hexec, hframe, hdistinct, hflag, hothers⟩ := exec_outBitThenShift_leaves
      (show exec (.op8XYE x y) s = .next (s.outBitThenShift x outBitLeft shiftLeft1) from rfl)
    refine ⟨t, hexec, hframe, fun hx => ?_, fun hx => ?_, hothers⟩
    · obtain ⟨hshift, hout⟩ := hdistinct hx
      exact ⟨by rw [hshift, shiftLeft1_toNat], by rw [hout, outBitLeft_toNat]⟩
    · have hbyte := (s.readV 15).isLt
      rw [hflag hx, shiftLeft1_toNat, outBitLeft_toNat]
      omega

/-- Settles O22: one value taken from the port, and one write of VX, whatever the value. -/
theorem randomIsOneMaskedDraw : Obligations.RandomIsOneMaskedDraw := by
  unfold Obligations.RandomIsOneMaskedDraw
  exact fun s x nn => ⟨_, rfl, rfl, s.dropRand.readV_setV_self x _,
    fun r => s.dropRand.readV_setV_of_ne x r _⟩

end Sys2Proof.Proofs

/-! ## I and memory at I (spec/43_index_memory.md R200 to R205) -/

namespace Sys2Proof.Machine

section
variable {i : Instr} {s : State} {x : Reg}

/-! ### Writes of I -/

/-- What an instruction that ends in a write of I leaves (R200 to R202). -/
theorem exec_setI_leaves {a : Word} {n : Nat} (h : exec i s = .next (s.setI a)) (ha : a.toNat = n) :
    ∃ t, exec i s = .next t ∧ t = { s with i := t.i } ∧ t.i.toNat = n :=
  ⟨_, h, rfl, ha⟩

/-- The sum goes to I when it fits, or when the parameter lets it wrap (R201, decision D6). -/
theorem State.addToI_of_le_or_wrap
    (h : s.i.toNat + (s.readV x).toNat ≤ 0xFFFF ∨ s.config.iOverflow = .wrap) :
    s.addToI x = .ok (s.setI (BitVec.ofNat 16 (s.i.toNat + (s.readV x).toNat))) := by
  refine if_neg fun ⟨hover, hfault⟩ => ?_
  rcases h with hle | hwrap
  · exact Nat.not_lt.mpr hle hover
  · exact IOverflow.noConfusion (hwrap.symm.trans hfault)

theorem State.addToI_of_fault (hover : 0xFFFF < s.i.toNat + (s.readV x).toNat)
    (hfault : s.config.iOverflow = .fault) :
    s.addToI x = .error (.iOverflow (encode (.opFX1E x)) s.fetchAddr) :=
  if_pos ⟨hover, hfault⟩

/-! ### Stores at I (R203, R204) -/

/-- What an instruction that stores bytes at I to `I + last` leaves, when every address passes its check
(R63, R64): each byte at its address, and everything else. -/
theorem exec_store_leaves {bs : List Byte} {last : Nat}
    (hexec : exec i s = finish s (s.access i (s.writeFaultAtI (last + 1))
      (s.writeBytes (s.addressI 0) bs)))
    (hlen : bs.length = last + 1) (hmem : Memory.wf s.config.font s.mem)
    (hlast : s.addressI last ≤ 0xFFF) (hfont : s.config.fontWrite = .fault → 0x04F < s.addressI 0) :
    ∃ t, exec i s = .next t ∧ t = { s with mem := t.mem } ∧
      (∀ k (hk : k < bs.length), t.readByte (s.addressI k) = bs[k]) ∧
      ∀ a, a < s.addressI 0 ∨ s.addressI last < a → t.readByte a = s.readByte a := by
  have hpass : s.writeFaultAtI (last + 1) = none :=
    (s.writeFaultAtI_none _ (Nat.succ_ne_zero last)).mpr ⟨Nat.succ_le_succ hlast, hfont⟩
  refine ⟨s.writeBytes (s.addressI 0) bs, ?_, rfl, fun k hk => ?_, fun a hout => ?_⟩
  · rw [hexec, hpass, State.access_none, finish_ok]
  · have hoffset : s.addressI k - s.addressI 0 = k := Nat.add_sub_cancel_left _ _
    simp only [State.readByte_writeBytes hmem, hoffset]
    exact dif_pos ⟨Nat.le_add_right _ k, hk⟩
  · rw [State.readByte_writeBytes hmem, dif_neg]
    simp only [State.addressI] at hout ⊢
    omega

/-- The BCD digits of a byte are the decimal digits of its value, hundreds first (R203). -/
theorem bcdDigits_eq (b : Byte) : ∃ hundreds tens ones : Byte, bcdDigits b = [hundreds, tens, ones] ∧
    hundreds.toNat * 100 + tens.toNat * 10 + ones.toNat = b.toNat ∧
    hundreds.toNat ≤ 2 ∧ tens.toNat ≤ 9 ∧ ones.toNat ≤ 9 := by
  refine ⟨_, _, _, rfl, ?_⟩
  simp only [BitVec.toNat_ofNat]
  have := b.isLt
  omega

/-! ### Loads from I (R205) -/

/-- A run of loads from V0: byte r of them in register r, the registers past them as before. -/
theorem State.readV_loadRegisters (s : State) (bs : List Byte) (r : Reg) :
    ({ s with v := loadRegisters s.v 0 bs } : State).readV r
      = if h : r.val < bs.length then bs[r.val] else s.readV r := by
  simp only [State.readV, getElem_loadRegisters, Nat.zero_le, Nat.sub_zero, true_and]

theorem exec_opFX65_of_le (hlast : s.addressI x.val ≤ 0xFFF) :
    exec (.opFX65 x) s = .next { s with v := loadRegisters s.v 0 (s.bytesAtI (x.val + 1)) } := by
  have hpass : s.readFaultAtI (x.val + 1) = none :=
    (s.readFaultAtI_none _ (Nat.succ_ne_zero x)).mpr (Nat.succ_le_succ hlast)
  rw [exec, execFX65, hpass, State.access_none, finish_ok]

end

end Sys2Proof.Machine

namespace Sys2Proof.Proofs

open Machine

/-- Settles O23: one write of I with NNN. -/
theorem loadIndexStoresNNN : Obligations.LoadIndexStoresNNN := by
  unfold Obligations.LoadIndexStoresNNN
  exact fun s nnn => exec_setI_leaves rfl (addressNNN_toNat nnn)

/-- Settles O24: both are one write of I, except the sum that overflows under `fault`; five times a byte
fits in I. -/
theorem indexArithmetic : Obligations.IndexArithmetic := by
  unfold Obligations.IndexArithmetic
  refine fun s x => ⟨fun hsum => ?_, fun hover hfault => ?_, ?_⟩
  · refine exec_setI_leaves ?_ (BitVec.toNat_ofNat _ 16)
    rw [exec, execFX1E, State.addToI_of_le_or_wrap hsum, finish_ok]
  · rw [exec, execFX1E, State.addToI_of_fault hover hfault, finish_error, State.raiseError]
  · refine exec_setI_leaves rfl ?_
    have := (s.readV x).isLt
    rw [BitVec.toNat_ofNat]
    omega

/-- Settles O25: a store of three bytes at I, which are the decimal digits of VX. -/
theorem bcdStoresThreeDigits : Obligations.BcdStoresThreeDigits := by
  unfold Obligations.BcdStoresThreeDigits
  intro s x hmem hlast hfont
  obtain ⟨hundreds, tens, ones, hdigits, hvalue, hbounds⟩ := bcdDigits_eq (s.readV x)
  have hexec : exec (.opFX33 x) s = finish s (s.access (.opFX33 x) (s.writeFaultAtI 3)
      (s.writeBytes (s.addressI 0) [hundreds, tens, ones])) := by
    rw [exec, execFX33, hdigits]
  obtain ⟨t, hnext, hframe, hbytes, hothers⟩ := exec_store_leaves hexec rfl hmem hlast hfont
  have h0 : t.readByte (s.addressI 0) = hundreds := hbytes 0 (by simp)
  have h1 : t.readByte (s.addressI 1) = tens := hbytes 1 (by simp)
  have h2 : t.readByte (s.addressI 2) = ones := hbytes 2 (by simp)
  rw [← h0, ← h1, ← h2] at hvalue hbounds
  obtain ⟨hle0, hle1, hle2⟩ := hbounds
  exact ⟨t, hnext, hframe, hvalue, hle0, hle1, hle2, hothers⟩

/-- Settles O26: a store of X + 1 bytes at I, which are the registers up to VX. -/
theorem storeRegistersAtI : Obligations.StoreRegistersAtI := by
  unfold Obligations.StoreRegistersAtI
  intro s x hmem hlast hfont
  obtain ⟨t, hnext, hframe, hbytes, hothers⟩ :=
    exec_store_leaves (i := .opFX55 x) rfl (s.length_registersTo x) hmem hlast hfont
  refine ⟨t, hnext, hframe, fun r hr => ?_, hothers⟩
  have hlt : r.val < (s.registersTo x).length := by simpa using hr
  rw [hbytes r.val hlt, State.getElem_registersTo]

/-- Settles O27: a load of X + 1 bytes from I into the registers from V0 up. -/
theorem loadRegistersFromI : Obligations.LoadRegistersFromI := by
  unfold Obligations.LoadRegistersFromI
  refine fun s x hlast => ⟨_, exec_opFX65_of_le hlast, rfl, fun r hr => ?_, fun r hr => ?_⟩
  · have hlt : r.val < (s.bytesAtI (x.val + 1)).length := by simpa using hr
    rw [State.readV_loadRegisters, dif_pos hlt, State.getElem_bytesAtI]
  · have hge : ¬ r.val < (s.bytesAtI (x.val + 1)).length := by simpa using hr
    rw [State.readV_loadRegisters, dif_neg hge]

end Sys2Proof.Proofs

/-! ## Display (spec/44_display.md R220 to R222) -/

namespace Sys2Proof.Machine

theorem flagByte_eq_one_iff {b : Bool} : flagByte b = 1#8 ↔ b = true := by
  cases b <;> decide

theorem flagByte_eq_zero_iff {b : Bool} : flagByte b = 0#8 ↔ b = false := by
  cases b <;> decide

/-- The pixels the 1 bits of a draw land on, in the order of R221's loop. -/
def State.drawnPoints (s : State) (x y : Reg) (n : Nat) : List (Nat × Nat) :=
  (List.range n).flatMap fun r =>
    ((List.range 8).filter fun c => (s.readByte (s.addressI r)).getLsbD (7 - c)).map fun c =>
      (((s.readV x).toNat + c) % s.config.fbWidth, ((s.readV y).toNat + r) % s.config.fbHeight)

/-- The state a draw leaves when its sprite is readable. -/
def State.draw (s : State) (x y : Reg) (n : Nat) : State :=
  { s with fb := (s.drawn x y n).fb }.setV 15 (flagByte (s.drawn x y n).collision)

section
variable {s : State} {x y : Reg} {n : Nat}

/-! ### The points of a draw -/

theorem State.drawnPoints_eq_spritePoints :
    s.drawnPoints x y n = spritePoints s.config.fbWidth s.config.fbHeight (s.readV x).toNat
      (s.readV y).toNat 0 (s.bytesAtI n) := by
  rw [spritePoints_eq, State.length_bytesAtI]
  refine List.flatMap_congr fun r hr => ?_
  have hlt : r < (s.bytesAtI n).length := by simpa using hr
  rw [columnPoints_eq, List.getElem?_eq_getElem hlt, Option.getD_some, State.getElem_bytesAtI,
    Nat.zero_add, List.range_eq_range']

theorem State.drawn_eq_plotPoints :
    s.drawn x y n = Canvas.plotPoints ⟨s.fb, false⟩ (s.drawnPoints x y n) := by
  rw [State.drawn, Canvas.plotRows_eq, State.drawnPoints_eq_spritePoints]

theorem State.mem_drawnPoints {p : Nat × Nat} :
    p ∈ s.drawnPoints x y n ↔ ∃ r c, r < n ∧ c < 8 ∧
      (s.readByte (s.addressI r)).getLsbD (7 - c) = true ∧
      p = (((s.readV x).toNat + c) % s.config.fbWidth,
        ((s.readV y).toNat + r) % s.config.fbHeight) := by
  simp only [State.drawnPoints, List.mem_flatMap, List.mem_map, List.mem_filter, List.mem_range,
    ← exists_and_left, and_assoc, eq_comm]

/-- The points lie on the grid, when the draw has no row to place on a grid without rows. -/
theorem State.drawnPoints_lt (hw : 0 < s.config.fbWidth) (hh : n ≠ 0 → 0 < s.config.fbHeight) :
    ∀ p ∈ s.drawnPoints x y n, p.1 < s.config.fbWidth ∧ p.2 < s.config.fbHeight := by
  intro p hp
  obtain ⟨r, c, hr, -, -, rfl⟩ := State.mem_drawnPoints.mp hp
  exact ⟨Nat.mod_lt _ hw, Nat.mod_lt _ (hh (Nat.ne_zero_of_lt hr))⟩

theorem State.nodup_drawnPoints (hw : 8 ≤ s.config.fbWidth) (hh : n ≤ s.config.fbHeight) :
    (s.drawnPoints x y n).Nodup := by
  rw [State.drawnPoints_eq_spritePoints]
  exact nodup_spritePoints _ _ _ _ hw (by rwa [State.length_bytesAtI])

/-- A draw has a point exactly if its sprite has a 1 bit. -/
theorem State.exists_mem_drawnPoints :
    (∃ p, p ∈ s.drawnPoints x y n) ↔
      ∃ r c, r < n ∧ c < 8 ∧ (s.readByte (s.addressI r)).getLsbD (7 - c) = true := by
  constructor
  · rintro ⟨p, hp⟩
    obtain ⟨r, c, hr, hc, hbit, -⟩ := State.mem_drawnPoints.mp hp
    exact ⟨r, c, hr, hc, hbit⟩
  · rintro ⟨r, c, hr, hc, hbit⟩
    exact ⟨_, State.mem_drawnPoints.mpr ⟨r, c, hr, hc, hbit, rfl⟩⟩

/-! ### The framebuffer and the collision flag of a draw -/

theorem State.fb_drawn :
    (s.drawn x y n).fb = (s.drawnPoints x y n).foldl (fun fb p => fb.toggle p.1 p.2) s.fb := by
  rw [State.drawn_eq_plotPoints, Canvas.fb_plotPoints]

/-- Every pixel is turned once for each of the points that it is (R221). -/
theorem State.pixel_drawn_count (hgrid : GridInv s) (hw : 0 < s.config.fbWidth)
    (hh : 0 < s.config.fbHeight) (px py : Nat) :
    (s.drawn x y n).fb.pixel px py
      = (s.fb.pixel px py ^^ ((s.drawnPoints x y n).count (px, py) % 2 == 1)) := by
  rw [State.fb_drawn, Framebuffer.pixel_foldl_toggle_count hgrid
    (State.drawnPoints_lt hw fun _ => hh)]

/-- The flag as the loop order gives it: some point was on, after the points before it (R221). -/
theorem State.collision_drawn_iff (hgrid : GridInv s) (hw : 0 < s.config.fbWidth)
    (hh : 0 < s.config.fbHeight) :
    (s.drawn x y n).collision = true ↔
      ∃ (k : Nat) (hk : k < (s.drawnPoints x y n).length),
        (s.fb.pixel (s.drawnPoints x y n)[k].1 (s.drawnPoints x y n)[k].2 ^^
          (((s.drawnPoints x y n).take k).count (s.drawnPoints x y n)[k] % 2 == 1)) = true := by
  have hlt := State.drawnPoints_lt (x := x) (y := y) (n := n) hw fun _ => hh
  rw [State.drawn_eq_plotPoints, Canvas.collision_plotPoints_iff (g := ⟨s.fb, false⟩) hgrid hlt]
  simp only [Bool.false_eq_true, false_or]
  refine exists₂_congr fun k hk => ?_
  rw [Framebuffer.pixel_foldl_toggle_count hgrid fun p hp => hlt p (List.mem_of_mem_take hp)]

section
variable (hgrid : GridInv s) (hw : 8 ≤ s.config.fbWidth) (hh : n ≤ s.config.fbHeight)
include hgrid hw hh

/-- On a grid where no two bits meet, a draw turns the pixels of its points (R221). -/
theorem State.pixel_drawn (px py : Nat) :
    (s.drawn x y n).fb.pixel px py
      = (s.fb.pixel px py ^^ decide ((px, py) ∈ s.drawnPoints x y n)) := by
  rw [State.fb_drawn, Framebuffer.pixel_foldl_toggle hgrid (State.nodup_drawnPoints hw hh)
    (State.drawnPoints_lt (by omega) (by omega))]

/-- On a grid where no two bits meet, the flag says whether a point was on before the draw (R221). -/
theorem State.collision_drawn_iff_exists :
    (s.drawn x y n).collision = true ↔
      ∃ p ∈ s.drawnPoints x y n, s.fb.pixel p.1 p.2 = true := by
  rw [State.drawn_eq_plotPoints, Canvas.collision_plotPoints (g := ⟨s.fb, false⟩) hgrid
    (State.nodup_drawnPoints hw hh) (State.drawnPoints_lt (by omega) (by omega)),
    Bool.false_or, List.any_eq_true]

end

/-! ### The draw as a step -/

/-- The draw completes when its sprite bytes are in memory (R64, R221). -/
theorem exec_opDXYN_of_readable {n : Fin 16} (h : n = 0 ∨ s.addressI n.val ≤ 0x1000) :
    exec (.opDXYN x y n) s = .next (s.draw x y n.val) := by
  have hpass : s.readFaultAtI n.val = none := by
    by_cases hn : n = 0
    · rw [hn]; exact s.readFaultAtI_zero
    · exact (s.readFaultAtI_none _ (Fin.val_ne_zero_iff.mpr hn)).mpr (h.resolve_left hn)
  rw [exec, execDXYN, hpass, State.access_none, finish_ok, State.draw]

@[simp] theorem State.fb_draw : (s.draw x y n).fb = (s.drawn x y n).fb := rfl

theorem State.readV_draw (r : Reg) :
    (s.draw x y n).readV r
      = if r = 15 then flagByte (s.drawn x y n).collision else s.readV r :=
  State.readV_setV _ 15 r _

@[simp] theorem State.readV_draw_flag :
    (s.draw x y n).readV 15 = flagByte (s.drawn x y n).collision := by
  rw [State.readV_draw, if_pos rfl]

theorem State.readV_draw_of_ne {r : Reg} (hr : r ≠ 15) : (s.draw x y n).readV r = s.readV r := by
  rw [State.readV_draw, if_neg hr]

theorem State.draw_gridInv (h : GridInv s) : GridInv (s.draw x y n) := s.wf_drawn h x y n

/-! ### Drawing twice (R222) -/

/-- A draw whose coordinates are not in VF leaves its own points where they were. -/
theorem State.drawnPoints_draw (hx : x ≠ 15) (hy : y ≠ 15) :
    (s.draw x y n).drawnPoints x y n = s.drawnPoints x y n := by
  rw [State.drawnPoints, State.readV_draw_of_ne hx, State.readV_draw_of_ne hy]
  rfl

theorem State.fb_draw_draw (hx : x ≠ 15) (hy : y ≠ 15) :
    ((s.draw x y n).draw x y n).fb = s.fb := by
  rw [State.fb_draw, State.fb_drawn, State.drawnPoints_draw hx hy, State.fb_draw, State.fb_drawn,
    Framebuffer.foldl_toggle_twice]

section
variable (hgrid : GridInv s) (hw : 8 ≤ s.config.fbWidth) (hh : n ≤ s.config.fbHeight)
  (hoff : ∀ px py, s.fb.pixel px py = false)
include hgrid hw hh hoff

/-- On a target that is all off no point is on. -/
theorem State.collision_drawn_of_off : (s.drawn x y n).collision = false := by
  rw [← Bool.not_eq_true, State.collision_drawn_iff_exists hgrid hw hh]
  rintro ⟨p, -, hon⟩
  exact Bool.false_ne_true ((hoff p.1 p.2).symm.trans hon)

/-- After a draw on a target that is all off its points are on, so a second draw collides exactly if the
sprite has a 1 bit. -/
theorem State.collision_drawn_draw_iff (hx : x ≠ 15) (hy : y ≠ 15) :
    ((s.draw x y n).drawn x y n).collision = true ↔
      ∃ r c, r < n ∧ c < 8 ∧ (s.readByte (s.addressI r)).getLsbD (7 - c) = true := by
  have hon (p : Nat × Nat) (hp : p ∈ s.drawnPoints x y n) :
      (s.draw x y n).fb.pixel p.1 p.2 = true := by
    rw [State.fb_draw, State.pixel_drawn hgrid hw hh, hoff, Bool.false_xor]
    exact decide_eq_true hp
  rw [State.collision_drawn_iff_exists (State.draw_gridInv hgrid) hw hh,
    State.drawnPoints_draw hx hy, ← State.exists_mem_drawnPoints (x := x) (y := y)]
  exact exists_congr fun p => ⟨And.left, fun hp => ⟨hp, hon p hp⟩⟩

end

end

end Sys2Proof.Machine

namespace Sys2Proof.Proofs

open Machine

/-- Settles O29: the new framebuffer is the blank grid. -/
theorem clearTurnsEveryPixelOff : Obligations.ClearTurnsEveryPixelOff := by
  unfold Obligations.ClearTurnsEveryPixelOff
  exact fun s => ⟨_, rfl, rfl, Framebuffer.wf_blank _ _, Framebuffer.pixel_blank _ _⟩

/-- Settles O30: no two bits meet on such a grid, so each point turns its pixel once and finds it as it
was before the draw. -/
theorem drawXorsSpriteAndReportsCollision : Obligations.DrawXorsSpriteAndReportsCollision := by
  unfold Obligations.DrawXorsSpriteAndReportsCollision
  intro s x y n hgrid hread hw hh lands
  have hmem (px py : Nat) : (px, py) ∈ s.drawnPoints x y n ↔ ∃ r c, lands r c px py := by
    simp only [State.mem_drawnPoints, Prod.mk.injEq, lands]
  have hhit : (s.drawn x y n).collision = true ↔
      ∃ r c px py, lands r c px py ∧ s.fb.pixel px py = true := by
    rw [State.collision_drawn_iff_exists hgrid hw hh]
    constructor
    · rintro ⟨⟨px, py⟩, hp, hon⟩
      obtain ⟨r, c, hland⟩ := (hmem px py).mp hp
      exact ⟨r, c, px, py, hland, hon⟩
    · rintro ⟨r, c, px, py, hland, hon⟩
      exact ⟨(px, py), (hmem px py).mpr ⟨r, c, hland⟩, hon⟩
  refine ⟨_, exec_opDXYN_of_readable hread, rfl, fun r => State.readV_draw_of_ne,
    fun px py => ?_, fun h => ?_, fun h => ?_⟩
  · rw [State.fb_draw, State.pixel_drawn hgrid hw hh, ← hmem, Bool.xor_iff_ne, ne_eq,
      Bool.eq_iff_iff, decide_eq_true_iff]
  · rw [State.readV_draw_flag, flagByte_eq_one_iff]
    exact hhit.mpr h
  · rw [State.readV_draw_flag, flagByte_eq_zero_iff, ← Bool.not_eq_true]
    exact fun hcollision => h (hhit.mp hcollision)

/-- Settles O31: a draw is the run of toggles at its points, in order. -/
theorem drawFollowsTheLoopOrderOnEveryGrid : Obligations.DrawFollowsTheLoopOrderOnEveryGrid := by
  unfold Obligations.DrawFollowsTheLoopOrderOnEveryGrid
  intro s x y n hgrid hread points pixelBefore
  refine ⟨_, exec_opDXYN_of_readable hread, rfl, State.draw_gridInv hgrid,
    fun r => State.readV_draw_of_ne, ?_, ?_, fun hw hh => ⟨fun px py => ?_, ?_⟩⟩
  · rw [State.readV_draw_flag, flagByte_eq_zero_iff, flagByte_eq_one_iff]
    exact (Bool.eq_false_or_eq_true _).symm
  · rintro rfl
    exact ⟨rfl, State.readV_draw_flag⟩
  · simp only [pixelBefore, List.take_length]
    exact State.pixel_drawn_count hgrid hw hh px py
  · rw [State.readV_draw_flag, flagByte_eq_one_iff]
    exact State.collision_drawn_iff hgrid hw hh

/-- Settles O32: the second draw has the points of the first, and a run of toggles undoes itself. -/
theorem drawingTwiceRestoresTheFramebuffer : Obligations.DrawingTwiceRestoresTheFramebuffer := by
  unfold Obligations.DrawingTwiceRestoresTheFramebuffer
  intro s x y n hgrid hx hy hread
  refine ⟨_, _, exec_opDXYN_of_readable hread, exec_opDXYN_of_readable (s := s.draw x y n) hread,
    State.fb_draw_draw hx hy, fun hoff hw hh => ?_⟩
  have hsecond := State.collision_drawn_draw_iff hgrid hw hh hoff hx hy
  simp only [State.readV_draw_flag]
  refine ⟨?_, fun hbit => ?_, fun hzero => ?_⟩
  · rw [flagByte_eq_zero_iff]
    exact State.collision_drawn_of_off hgrid hw hh hoff
  · rw [flagByte_eq_one_iff]
    exact hsecond.mpr hbit
  · rw [flagByte_eq_zero_iff, ← Bool.not_eq_true, hsecond]
    rintro ⟨r, c, hr, -, hbit⟩
    rw [hzero r hr, BitVec.getLsbD_zero] at hbit
    exact Bool.false_ne_true hbit

end Sys2Proof.Proofs

/-! ## Keys, timers and the key wait (spec/45_input_timers.md R240 to R248, R281, R282) -/

namespace Sys2Proof.Machine

section
variable {s t : State} {i : Instr} {x : Reg} {k : Fin 16} {wanted : Bool}

/-! ### Key skips, one equation per case (R240, R241) -/

theorem State.keyIndex_of_toNat_eq (hkey : (s.readV x).toNat = k.val) : s.keyIndex x = some k := by
  rw [State.keyIndex, dif_pos (hkey ▸ k.isLt), Option.some_inj]
  exact Fin.ext hkey

theorem State.keyIndex_of_gt (hover : 0xF < (s.readV x).toNat) : s.keyIndex x = none :=
  dif_neg (Nat.not_lt.mpr hover)

theorem finish_skipIfKey_of_key (hkey : (s.readV x).toNat = k.val) :
    finish s (s.skipIfKey i x wanted)
      = .next { s with pc := if s.keyDown k = wanted then s.pc + 2#16 else s.pc } := by
  rw [State.skipIfKey, State.keyIndex_of_toNat_eq hkey, finish_ok, State.skipIf_of_iff beq_iff_eq]

theorem finish_skipIfKey_of_gt (hover : 0xF < (s.readV x).toNat) :
    finish s (s.skipIfKey i x wanted)
      = .next (s.raiseError (.keyIndexFault (encode i) s.fetchAddr (s.readV x))) := by
  rw [State.skipIfKey, State.keyIndex_of_gt hover, finish_error]

/-! ### The poll of a pending key wait (R246, R282) -/

section
variable {now before : KeyVector}

/-- The list is sorted, so a pressed key below which none is pressed stands first. -/
theorem pressedKeys_of_lowest (hnow : now[k.val] = true) (hbefore : before[k.val] = false)
    (hlowest : ∀ j : Fin 16, j < k → ¬ (now[j.val] = true ∧ before[j.val] = false)) :
    ∃ rest, pressedKeys now before = k :: rest := by
  have hk : k ∈ pressedKeys now before := (mem_pressedKeys now before k).mpr ⟨hnow, hbefore⟩
  have hsorted := pressedKeys_sorted now before
  cases hkeys : pressedKeys now before with
  | nil => rw [hkeys] at hk; cases hk
  | cons j rest =>
    rw [hkeys] at hk hsorted
    have hj : now[j.val] = true ∧ before[j.val] = false :=
      (mem_pressedKeys now before j).mp (hkeys ▸ List.mem_cons_self)
    rcases List.mem_cons.mp hk with rfl | hlater
    · exact ⟨rest, rfl⟩
    · exact absurd hj (hlowest j (List.rel_of_pairwise_cons hsorted hlater))

theorem pressedKeys_eq_nil (hnone : ∀ k : Fin 16, ¬ (now[k.val] = true ∧ before[k.val] = false)) :
    pressedKeys now before = [] :=
  List.eq_nil_iff_forall_not_mem.mpr fun k hk => hnone k ((mem_pressedKeys now before k).mp hk)

end

variable {w : KeyWait}

theorem State.pollKeys_of_pressed {rest : List (Fin 16)}
    (hkeys : pressedKeys s.keys w.prevKeys = k :: rest) :
    s.pollKeys w = { s.setV w.x (BitVec.ofNat 8 k.val) with
      wait := none, phase := .batch, batchLeft := w.remaining } := by
  rw [State.pollKeys, hkeys]

theorem State.pollKeys_of_none_pressed (hkeys : pressedKeys s.keys w.prevKeys = []) :
    s.pollKeys w = { s with
      wait := some { w with prevKeys := s.keys }, phase := .pacing
      snapshot := ⟨s.toMachineState, true⟩ } := by
  rw [State.pollKeys, hkeys]
  rfl

/-! ### The terminal check and the choice of step 3, one equation per case (R280, R282) -/

theorem State.decideStep_of_exit (hexit : s.exitRequested = true) :
    s.decideStep = { s with phase := .terminated, wait := none } := by
  rw [State.decideStep, if_pos hexit]

theorem State.decideStep_of_error (hexit : s.exitRequested = false) (herr : s.error ≠ none) :
    s.decideStep = { s with phase := .pacing } := by
  rw [State.decideStep, hexit, if_neg Bool.false_ne_true,
    if_pos (Option.isSome_iff_ne_none.mpr herr)]

theorem State.decideStep_of_wait (hexit : s.exitRequested = false) (herr : s.error = none)
    (hwait : s.wait = some w) : s.decideStep = s.pollKeys w := by
  simp [State.decideStep, hexit, herr, hwait]

/-! ### What a pending key wait holds still (R247, R248, decision D13) -/

/-- t has the fields of s that stand still while a key wait is pending, has counted no frame since s, and
still has the one-shot request of s. -/
structure HeldByKeyWait (s t : State) : Prop where
  /-- The registers, the call stack, the framebuffer, the timers and the random port. -/
  fields : t = { t with v := s.v, i := s.i, pc := s.pc, callStack := s.callStack, fb := s.fb,
                        dt := s.dt, st := s.st, randIn := s.randIn }
  /-- The instrumentation may zero the count (R286). -/
  frames : t.currentFrame ≤ s.currentFrame
  /-- `step_once`. -/
  oneShot : s.stepOnce = true → t.stepOnce = true

theorem State.stepOnce_applyCommand (c : Command) (hset : s.stepOnce = true) :
    (s.applyCommand c).stepOnce = true := by
  cases c with
  | stepFrame => rfl
  | loadRom path =>
    show (s.loadRom path).stepOnce = true
    rcases s.loadRom_cases path with ⟨e, ht⟩ | ⟨b, -, -, ht⟩ <;> rw [ht] <;> exact hset
  | _ => exact hset

theorem State.currentFrame_paceStep_le (s : State) : s.paceStep.currentFrame ≤ s.currentFrame := by
  simp only [State.paceStep, State.recordInstrumentation, State.pace]
  split <;> split
  · exact le_rfl
  · exact Nat.zero_le _
  · exact le_rfl
  · exact Nat.zero_le _

theorem HeldByKeyWait.applyCommand (s : State) (c : Command) :
    HeldByKeyWait s (s.applyCommand c) where
  fields := by rw [s.applyCommand_frame c]
  frames := (congrArg (·.currentFrame) (s.applyCommand_frame c)).le
  oneShot := State.stepOnce_applyCommand c

theorem HeldByKeyWait.drainStep (s : State) : HeldByKeyWait s s.drainStep := by
  unfold State.drainStep
  split
  · next c rest _ =>
    obtain ⟨hfields, hframes, honeShot⟩ :=
      applyCommand { s with cmdFifo := rest, applied := s.applied + 1 } c
    exact ⟨hfields, hframes, honeShot⟩
  · split <;> exact ⟨rfl, le_rfl, id⟩

/-- A poll that leaves the wait pending saw no key go down. -/
theorem HeldByKeyWait.pollKeys (hwait : (s.pollKeys w).wait ≠ none) :
    HeldByKeyWait s (s.pollKeys w) := by
  cases hkeys : pressedKeys s.keys w.prevKeys with
  | nil => rw [State.pollKeys_of_none_pressed hkeys]; exact ⟨rfl, le_rfl, id⟩
  | cons k rest => rw [State.pollKeys_of_pressed hkeys] at hwait; exact absurd rfl hwait

/-- A requested exit drops the wait, an error skips the poll. -/
theorem HeldByKeyWait.decideStep (hpending : s.wait = some w) (hwait : s.decideStep.wait ≠ none) :
    HeldByKeyWait s s.decideStep := by
  cases hexit : s.exitRequested with
  | true => rw [State.decideStep_of_exit hexit] at hwait; exact absurd rfl hwait
  | false =>
    by_cases herr : s.error = none
    · rw [State.decideStep_of_wait hexit herr hpending] at hwait ⊢
      exact pollKeys hwait
    · rw [State.decideStep_of_error hexit herr]
      exact ⟨rfl, le_rfl, id⟩

theorem HeldByKeyWait.paceStep (s : State) : HeldByKeyWait s s.paceStep where
  fields := by rw [s.paceStep_frame]
  frames := s.currentFrame_paceStep_le
  oneShot hset := (congrArg (·.stepOnce) s.paceStep_frame).trans hset

/-- A step that leaves a pending wait pending holds them, phase by phase of the scheduler's loop; inside a
batch no wait is pending. -/
theorem HeldByKeyWait.step (hinv : SchedulerInv s) (hpending : s.wait = some w)
    (hstep : step s = .next t) (hwait : t.wait ≠ none) : HeldByKeyWait s t := by
  cases hphase : s.phase with
  | iterationStart =>
    rw [step_iterationStart hphase] at hstep; cases hstep; exact ⟨rfl, le_rfl, id⟩
  | draining => rw [step_draining hphase] at hstep; cases hstep; exact drainStep s
  | deciding => rw [step_deciding hphase] at hstep; cases hstep; exact decideStep hpending hwait
  | batch => rw [hinv.batchNoWait hphase] at hpending; cases hpending
  | pacing => rw [step_pacing hphase] at hstep; cases hstep; exact paceStep s
  | terminated => rw [step_terminated hphase] at hstep; cases hstep

end

end Sys2Proof.Machine

namespace Sys2Proof.Proofs

open Machine

/-- Settles O33: each of the two is a skip by the key VX numbers, or the fault of an index with no key. -/
theorem keySkipsTestTheLatch : Obligations.KeySkipsTestTheLatch := by
  unfold Obligations.KeySkipsTestTheLatch
  exact fun s x =>
    ⟨fun _ hkey => ⟨finish_skipIfKey_of_key hkey, finish_skipIfKey_of_key hkey⟩,
      fun hover => ⟨finish_skipIfKey_of_gt hover, finish_skipIfKey_of_gt hover⟩⟩

/-- Settles O34: a write of VX, of DT and of ST. -/
theorem timerInstructionsCopy : Obligations.TimerInstructionsCopy := by
  unfold Obligations.TimerInstructionsCopy
  exact fun s x => ⟨exec_setV_leaves rfl, rfl, rfl⟩

/-- Settles O35: the instruction enters the wait on the advanced state, and an entered wait leaves the
batch. -/
theorem keyWaitIsEnteredInsideABatch : Obligations.KeyWaitIsEnteredInsideABatch := by
  unfold Obligations.KeyWaitIsEnteredInsideABatch
  refine ⟨fun s x => rfl, fun s n x hphase hleft henabled hpc hword => ?_⟩
  obtain ⟨herr, hexit, -⟩ := State.enabled_iff.mp henabled
  have hfetch : State.fetch { s with batchLeft := n } = .ok (encode (.opFX0A x)) :=
    State.fetch_eq_ok.mpr ⟨hpc, hword.symm⟩
  have hexec : executeInstruction { s with batchLeft := n }
      = .next { s with pc := s.pc + 2#16, wait := some ⟨x, s.keys, n⟩, batchLeft := n } :=
    executeInstruction_of_decode_ok hfetch (decode_encode rfl)
  refine (step_batch_of_next hphase hleft henabled hexec).trans (congrArg _ ?_)
  exact State.afterInstruction_of_wait herr hexit (Option.some_ne_none _)

/-- Settles O36: the lowest pressed key heads the list that the poll goes by, which is empty when no key
went down. -/
theorem pollCompletesOnLowestPressedKey : Obligations.PollCompletesOnLowestPressedKey := by
  unfold Obligations.PollCompletesOnLowestPressedKey
  intro s w hphase hexit herr hwait
  rw [step_deciding hphase, State.decideStep_of_wait hexit herr hwait]
  refine ⟨fun k hnow hbefore hlowest => ?_, fun hnone => ?_⟩
  · obtain ⟨rest, hkeys⟩ := pressedKeys_of_lowest hnow hbefore hlowest
    refine ⟨_, congrArg _ (State.pollKeys_of_pressed hkeys), rfl, ?_,
      fun r => s.readV_setV_of_ne w.x r _⟩
    have hkey : (s.setV w.x (BitVec.ofNat 8 k.val)).readV w.x = BitVec.ofNat 8 k.val :=
      s.readV_setV_self w.x _
    exact (congrArg BitVec.toNat hkey).trans (Nat.mod_eq_of_lt (by omega))
  · rw [State.pollKeys_of_none_pressed (pressedKeys_eq_nil hnone)]

/-- Settles O37: by the phase of the scheduler's loop. -/
theorem keyWaitHoldsRegistersTimersAndFrameCount :
    Obligations.KeyWaitHoldsRegistersTimersAndFrameCount := by
  unfold Obligations.KeyWaitHoldsRegistersTimersAndFrameCount
  intro s t hinv hpending hstep hwait
  obtain ⟨w, hpending⟩ := Option.isSome_iff_exists.mp hpending
  obtain ⟨hfields, hframes, honeShot⟩ :=
    HeldByKeyWait.step hinv hpending hstep (Option.isSome_iff_ne_none.mp hwait)
  exact ⟨congrArg (·.v) hfields, congrArg (·.i) hfields, congrArg (·.pc) hfields,
    congrArg (·.callStack) hfields, congrArg (·.fb) hfields, congrArg (·.dt) hfields,
    congrArg (·.st) hfields, congrArg (·.randIn) hfields, hframes, honeShot⟩

end Sys2Proof.Proofs

/-! ## Commands and the drain (spec/46_control_plane.md R262 to R267, R278, R279) -/

namespace Sys2Proof.Machine

section
variable {s : State} {path : String} {b : List Byte} {c : Command} {rest : List Command}

/-! ### The host's answer to a `LoadRom`, one equation per case (R264) -/

theorem State.applyCommand_loadRom_of_ioError {e : String} (hreply : s.romReply path = .ioError e) :
    s.applyCommand (.loadRom path) = (s.requestRom path).raiseError (.invalidRom path e) := by
  rw [State.applyCommand, State.loadRom, hreply]
  rfl

theorem State.applyCommand_loadRom_of_tooLong (hreply : s.romReply path = .bytes b)
    (hlong : 3584 < b.length) :
    s.applyCommand (.loadRom path)
      = (s.requestRom path).raiseError (.romTooLarge path b.length 3584) := by
  rw [State.applyCommand, State.loadRom, hreply]
  exact if_pos hlong

theorem State.applyCommand_loadRom_of_fits (hreply : s.romReply path = .bytes b)
    (hfits : b.length ≤ 3584) :
    s.applyCommand (.loadRom path) = { (s.requestRom path).writeBytes 0x200 b with
      romName := some path, romSize := some b.length } := by
  rw [State.applyCommand, State.loadRom, hreply]
  exact if_neg (Nat.not_lt.mpr hfits)

/-! ### The drain, one equation per case -/

theorem State.drainStep_of_cons (hfifo : s.cmdFifo = c :: rest) :
    s.drainStep = { s with cmdFifo := rest, applied := s.applied + 1 }.applyCommand c := by
  rw [State.drainStep, hfifo]

theorem State.drainStep_of_nil (hfifo : s.cmdFifo = []) :
    s.drainStep = { s with
      snapshot := if 0 < s.applied then ⟨s.toMachineState, s.wait.isSome⟩ else s.snapshot
      phase := .deciding } := by
  unfold State.drainStep
  split
  · next hcons => rw [hfifo] at hcons; cases hcons
  · split <;> rfl

/-! ### A whole drain -/

/-- s at the end of its drain, left to itself (R278, R279). -/
def State.drained (s : State) : State :=
  let u := s.cmdFifo.foldl State.applyCommand s
  { u with
    cmdFifo := []
    applied := s.applied + s.cmdFifo.length
    phase := .deciding
    snapshot := if 0 < s.applied + s.cmdFifo.length then ⟨u.toMachineState, u.wait.isSome⟩
                else s.snapshot }

/-- No command looks at the FIFO or at the count of applied commands. -/
theorem State.applyCommand_queue (s : State) (c : Command) (fifo : List Command) (n : Nat) :
    State.applyCommand { s with cmdFifo := fifo, applied := n } c
      = { s.applyCommand c with cmdFifo := fifo, applied := n } := by
  cases c with
  | loadRom path =>
    cases hreply : s.romReply path with
    | ioError e =>
      rw [State.applyCommand_loadRom_of_ioError hreply,
        State.applyCommand_loadRom_of_ioError (s := { s with cmdFifo := fifo, applied := n }) hreply]
      rfl
    | bytes b =>
      rcases Nat.lt_or_ge 3584 b.length with hlong | hfits
      · rw [State.applyCommand_loadRom_of_tooLong hreply hlong,
          State.applyCommand_loadRom_of_tooLong (s := { s with cmdFifo := fifo, applied := n })
            hreply hlong]
        rfl
      · rw [State.applyCommand_loadRom_of_fits hreply hfits,
          State.applyCommand_loadRom_of_fits (s := { s with cmdFifo := fifo, applied := n })
            hreply hfits]
        rfl
  | _ => rfl

theorem State.foldl_applyCommand_queue (s : State) (l fifo : List Command) (n : Nat) :
    l.foldl State.applyCommand { s with cmdFifo := fifo, applied := n }
      = { l.foldl State.applyCommand s with cmdFifo := fifo, applied := n } := by
  induction l generalizing s with
  | nil => rfl
  | cons c rest ih => rw [List.foldl_cons, State.applyCommand_queue, ih, List.foldl_cons]

/-- Taking the oldest command off and applying it leaves the same drain to come. -/
theorem State.drained_drainStep (hfifo : s.cmdFifo = c :: rest) :
    s.drainStep.drained = s.drained := by
  have hdrain : s.drainStep = { s.applyCommand c with cmdFifo := rest, applied := s.applied + 1 } :=
    (State.drainStep_of_cons hfifo).trans (s.applyCommand_queue c rest _)
  have hcount : s.applied + 1 + rest.length = s.applied + (rest.length + 1) := by omega
  rw [hdrain]
  simp only [State.drained, hfifo, State.foldl_applyCommand_queue, List.foldl_cons,
    List.length_cons, hcount, Nat.add_pos_right s.applied rest.length.succ_pos, if_true]

/-- One step per queued command and one more lead to the end of the drain. -/
theorem steps_drain (hphase : s.phase = .draining) :
    steps (s.cmdFifo.length + 1) s = .next s.drained := by
  induction hfifo : s.cmdFifo generalizing s with
  | nil =>
    rw [List.length_nil, steps_succ_of_next 0 (step_draining hphase), steps_zero,
      State.drainStep_of_nil hfifo, State.drained, hfifo]
    rfl
  | cons c rest ih =>
    have hframe := State.applyCommand_frame { s with cmdFifo := rest, applied := s.applied + 1 } c
    rw [← State.drainStep_of_cons hfifo] at hframe
    rw [List.length_cons, steps_succ_of_next _ (step_draining hphase),
      ih ((congrArg (·.phase) hframe).trans hphase) (congrArg (·.cmdFifo) hframe),
      State.drained_drainStep hfifo]

end

end Sys2Proof.Machine

namespace Sys2Proof.Proofs

open Machine

/-- Settles O38: the drain step takes the head of the FIFO, and each command is one update. -/
theorem drainAppliesTheOldestCommand : Obligations.DrainAppliesTheOldestCommand := by
  unfold Obligations.DrainAppliesTheOldestCommand
  intro s c rest hphase hfifo
  refine ⟨?_, fun _ => rfl, rfl, fun _ => rfl, fun _ => rfl, rfl⟩
  rw [step_draining hphase, State.drainStep_of_cons hfifo]

/-- Settles O39: the answer fits, so its bytes are written from 0x200. -/
theorem loadRomStoresTheBytes : Obligations.LoadRomStoresTheBytes := by
  unfold Obligations.LoadRomStoresTheBytes
  intro s path b hwf hreply hfits
  rw [State.applyCommand_loadRom_of_fits hreply hfits]
  have hread := Memory.read_writeAll s.config.font hwf 0x200 b
  refine ⟨rfl, fun k hk => ?_, fun a ha => (hread a).trans (dif_neg (by omega))⟩
  refine (hread (0x200 + k)).trans ((dif_pos ⟨Nat.le_add_right _ _, by omega⟩).trans ?_)
  simp only [Nat.add_sub_cancel_left]

/-- Settles O40: the two failures of the read, each the error it raises. -/
theorem failedLoadRomOnlySetsTheError : Obligations.FailedLoadRomOnlySetsTheError := by
  unfold Obligations.FailedLoadRomOnlySetsTheError
  refine fun s path => ⟨fun e hreply => ?_, fun b hreply hlong => ?_⟩
  · rw [State.applyCommand_loadRom_of_ioError hreply]
    rfl
  · rw [State.applyCommand_loadRom_of_tooLong hreply hlong]
    rfl

/-- Settles O41: by induction on the FIFO; no command looks at the FIFO or at the count. -/
theorem drainAppliesAllInOrderThenPublishes : Obligations.DrainAppliesAllInOrderThenPublishes := by
  unfold Obligations.DrainAppliesAllInOrderThenPublishes
  exact fun s hphase => ⟨s.drained, steps_drain hphase, rfl, fun hsome => if_pos hsome,
    fun hnone => if_neg hnone.not_gt⟩

end Sys2Proof.Proofs

/-! ## The frame scheduler, action by action (spec/46_control_plane.md R277, R280 to R286) -/

namespace Sys2Proof.Machine

section
variable {s : State}

/-! ### The choice of step 3, beside the exit, the error and the pending wait (R281) -/

/-- Nothing to do in step 3: an error, or nothing pending and nothing to run. -/
theorem State.decideStep_of_skip (hexit : s.exitRequested = false)
    (hskip : s.error ≠ none ∨ (s.wait = none ∧ s.running = false ∧ s.stepOnce = false)) :
    s.decideStep = { s with phase := .pacing } := by
  by_cases herr : s.error = none
  · obtain ⟨hwait, hrun, honce⟩ := hskip.resolve_left (not_not_intro herr)
    simp [State.decideStep, hexit, herr, hwait, hrun, honce]
  · exact State.decideStep_of_error hexit herr

theorem State.decideStep_of_run (hexit : s.exitRequested = false) (herr : s.error = none)
    (hwait : s.wait = none) (hrun : s.running = true ∨ s.stepOnce = true) :
    s.decideStep = { s with phase := .batch, batchLeft := s.opcodesPerFrame.toNat } := by
  simp [State.decideStep, hexit, herr, hwait, hrun]

/-- The four ways step 2 and the choice of step 3 can go: the exit, nothing to do, the poll of a pending
wait, a batch (R280 to R282). -/
theorem State.step3_cases (s : State) :
    s.exitRequested = true ∨ (s.exitRequested = false ∧
      ((s.error ≠ none ∨ (s.wait = none ∧ s.running = false ∧ s.stepOnce = false)) ∨
        (s.error = none ∧ ∃ w, s.wait = some w) ∨
        (s.error = none ∧ s.wait = none ∧ (s.running = true ∨ s.stepOnce = true)))) := by
  cases hexit : s.exitRequested with
  | true => exact .inl rfl
  | false =>
    refine .inr ⟨rfl, ?_⟩
    by_cases herr : s.error = none
    · cases hwait : s.wait with
      | some w => exact .inr (.inl ⟨herr, w, rfl⟩)
      | none =>
        by_cases hrun : s.running = true ∨ s.stepOnce = true
        · exact .inr (.inr ⟨herr, rfl, hrun⟩)
        · exact .inl (.inr ⟨rfl, by simpa using hrun⟩)
    · exact .inl (.inl herr)

/-! ### The end of a frame (R283) -/

theorem step_batch_over (hphase : s.phase = .batch) (hover : s.batchLeft = 0) :
    step s = .next s.endOfFrame := by
  rw [step_batch hphase, State.batchStep, if_pos hover]

/-! ### Pacing, one lemma per case (R284 to R286) -/

theorem State.clock_le_clockReading (s : State) : s.clock ≤ s.clockReading :=
  le_add_of_nonneg_right (magnitude_nonneg _)

theorem State.hostSlept_nonneg (s : State) : 0 ≤ s.hostSlept := magnitude_nonneg _

/-- The time step 5 measures at pacing (R284). -/
def State.elapsed (s : State) : Duration := s.clockReading - s.frameStart

theorem State.running_or_stopped (s : State) :
    (s.running = true ∧ s.error = none) ∨ (s.running = false ∨ s.error ≠ none) := by
  cases s.running with
  | true => exact (em (s.error = none)).imp (⟨rfl, ·⟩) .inr
  | false => exact .inr (.inl rfl)

/-- The state between the sleep of step 5 and the instrumentation of step 6. -/
def State.paced (s : State) : State := s.readClock.pace s.elapsed

theorem State.paceStep_eq (s : State) :
    s.paceStep = { s.paced.recordInstrumentation s.elapsed (s.slept s.elapsed) with
      phase := .iterationStart } := rfl

theorem State.paced_of_late (hlate : s.sleepBudget s.elapsed < 0) :
    s.paced = { s.readClock with carriedError := 0 } := if_pos hlate

theorem State.paced_of_inTime (hbudget : 0 ≤ s.sleepBudget s.elapsed) :
    s.paced = { s.readClock.requestSleep (s.sleepBudget s.elapsed) with
      carriedError := s.sleepBudget s.elapsed - s.hostSlept } := if_neg (not_lt.mpr hbudget)

theorem State.paced_frame (s : State) :
    s.paced = { s with
      carriedError := s.paced.carriedError, clock := s.paced.clock, clockIn := s.clockIn.take
      sleepOut := s.paced.sleepOut } := by
  rcases lt_or_ge (s.sleepBudget s.elapsed) 0 with hlate | hbudget
  · rw [State.paced_of_late hlate]
    rfl
  · rw [State.paced_of_inTime hbudget]
    rfl

theorem State.recordInstrumentation_of_running (hrun : s.running = true) (herr : s.error = none)
    (elapsed slept : Duration) : s.recordInstrumentation elapsed slept = { s with
      actualFrameTime := elapsed
      frameTimeWithSleep := elapsed + slept
      fps := if elapsed + slept = 0 then 0 else 1000 / (elapsed + slept) } := by
  rw [State.recordInstrumentation, hrun, herr]
  rfl

theorem State.recordInstrumentation_of_stopped (hstopped : s.running = false ∨ s.error ≠ none)
    (elapsed slept : Duration) : s.recordInstrumentation elapsed slept = { s with
      actualFrameTime := 0, frameTimeWithSleep := 0, fps := 0, currentFrame := 0 } := by
  refine if_neg fun hrecord => ?_
  obtain ⟨hrun, herr⟩ := Bool.and_eq_true_iff.mp hrecord
  rcases hstopped with hnotrun | hsome
  · exact Bool.false_ne_true (hnotrun.symm.trans hrun)
  · exact hsome (Option.isNone_iff_eq_none.mp herr)

theorem State.paceStep_of_running (hrun : s.running = true) (herr : s.error = none) :
    s.paceStep = { s.paced with
      actualFrameTime := s.elapsed
      frameTimeWithSleep := s.elapsed + s.slept s.elapsed
      fps := if s.elapsed + s.slept s.elapsed = 0 then 0 else 1000 / (s.elapsed + s.slept s.elapsed)
      phase := .iterationStart } := by
  have hframe := s.paced_frame
  rw [State.paceStep_eq, State.recordInstrumentation_of_running
    ((congrArg (·.running) hframe).trans hrun) ((congrArg (·.error) hframe).trans herr)]

theorem State.paceStep_of_stopped (hstopped : s.running = false ∨ s.error ≠ none) :
    s.paceStep = { s.paced with
      actualFrameTime := 0, frameTimeWithSleep := 0, fps := 0, currentFrame := 0
      phase := .iterationStart } := by
  have hframe := s.paced_frame
  have hrun : s.paced.running = s.running := congrArg (·.running) hframe
  have herr : s.paced.error = s.error := congrArg (·.error) hframe
  rw [State.paceStep_eq, State.recordInstrumentation_of_stopped (by rwa [hrun, herr])]

/-- Stopped, pacing writes the times, the time ports and zeros (R286). -/
theorem State.paceStep_frame_of_stopped (hstopped : s.running = false ∨ s.error ≠ none) :
    s.paceStep = { s with
      carriedError := s.paceStep.carriedError, clock := s.paceStep.clock, clockIn := s.clockIn.take
      sleepOut := s.paceStep.sleepOut, actualFrameTime := 0, frameTimeWithSleep := 0, fps := 0
      currentFrame := 0, phase := .iterationStart } := by
  rw [State.paceStep_of_stopped hstopped]
  exact congrArg (fun u : State => { u with
    actualFrameTime := 0, frameTimeWithSleep := 0, fps := 0, currentFrame := 0
    phase := .iterationStart }) s.paced_frame

/-- The instrumentation leaves the drift and the sleep port as pacing left them. -/
theorem State.paceStep_keeps_paced (s : State) :
    s.paceStep.carriedError = s.paced.carriedError ∧ s.paceStep.sleepOut = s.paced.sleepOut := by
  rcases s.running_or_stopped with ⟨hrun, herr⟩ | hstopped
  · rw [State.paceStep_of_running hrun herr]
    exact ⟨rfl, rfl⟩
  · rw [State.paceStep_of_stopped hstopped]
    exact ⟨rfl, rfl⟩

end

end Sys2Proof.Machine

namespace Sys2Proof.Proofs

open Machine

/-- Settles O43: the cases of the terminal check and of step 3 in their order. -/
theorem terminalCheckThenChoiceOfStep3 : Obligations.TerminalCheckThenChoiceOfStep3 := by
  unfold Obligations.TerminalCheckThenChoiceOfStep3
  refine fun s => ⟨fun hphase => ?_, step_terminated⟩
  rw [step_deciding hphase]
  refine ⟨fun hexit => ?_, fun hexit herr => ?_, fun hexit herr hwait =>
    ⟨fun hrun => ?_, fun hrun honce => ?_⟩⟩
  · rw [State.decideStep_of_exit hexit]
  · rw [State.decideStep_of_error hexit herr]
  · rw [State.decideStep_of_run hexit herr hwait hrun]
  · rw [State.decideStep_of_skip hexit (.inr ⟨hwait, hrun, honce⟩)]

/-- Settles O44: the end of the frame, its timers as natural numbers. -/
theorem endOfFrameDecrementsPublishesCounts : Obligations.EndOfFrameDecrementsPublishesCounts := by
  unfold Obligations.EndOfFrameDecrementsPublishesCounts
  exact fun s hphase hover => ⟨s.endOfFrame, step_batch_over hphase hover, rfl,
    decTimer_toNat s.dt, decTimer_toNat s.st, rfl⟩

/-- Settles O45: the two clock readings; pacing by the sign of its budget, and the instrumentation by
whether the engine runs without an error. -/
theorem iterationReadsTheClockAndPacingCompensatesDrift :
    Obligations.IterationReadsTheClockAndPacingCompensatesDrift := by
  unfold Obligations.IterationReadsTheClockAndPacingCompensatesDrift
  intro s
  refine ⟨s.clock_le_clockReading, s.hostSlept_nonneg, step_iterationStart, fun hphase =>
    ⟨s.paceStep, step_pacing hphase, s.paceStep_frame, fun hlate => ?_, fun hbudget => ?_,
      fun hrun herr => ?_, fun hstopped => ?_⟩⟩
  · obtain ⟨hdrift, hport⟩ := s.paceStep_keeps_paced
    rw [hdrift, hport, State.paced_of_late hlate]
    exact ⟨rfl, rfl⟩
  · obtain ⟨hdrift, hport⟩ := s.paceStep_keeps_paced
    rw [hdrift, hport, State.paced_of_inTime hbudget, if_neg (not_lt.mpr hbudget)]
    exact ⟨rfl, rfl⟩
  · rw [State.paceStep_of_running hrun herr]
    exact ⟨rfl, rfl, rfl, congrArg (·.currentFrame) s.paced_frame⟩
  · rw [State.paceStep_of_stopped hstopped]
    exact ⟨rfl, rfl, rfl, rfl⟩

end Sys2Proof.Proofs

/-! ## Bounded progress (spec/46_control_plane.md R281, R284, R286, R288) -/

namespace Sys2Proof.Machine

/-- The block comes within k of its own steps from s to a state of which P holds. -/
def ReachesWithin (k : Nat) (s : State) (P : State → Prop) : Prop :=
  ∃ j t, j ≤ k ∧ steps j s = .next t ∧ P t

section
variable {s t : State} {k l : Nat} {P Q : State → Prop}

theorem ReachesWithin.of_steps (hsteps : steps k s = .next t) (ht : P t) : ReachesWithin k s P :=
  ⟨k, t, le_rfl, hsteps, ht⟩

theorem ReachesWithin.mono (h : ReachesWithin k s P) (hkl : k ≤ l) : ReachesWithin l s P := by
  obtain ⟨j, t, hj, hsteps, ht⟩ := h
  exact ⟨j, t, hj.trans hkl, hsteps, ht⟩

theorem ReachesWithin.trans (h : ReachesWithin k s P) (hnext : ∀ t, P t → ReachesWithin l t Q) :
    ReachesWithin (k + l) s Q := by
  obtain ⟨i, t, hi, hsteps, ht⟩ := h
  obtain ⟨j, u, hj, hsteps', hu⟩ := hnext t ht
  exact ⟨i + j, u, Nat.add_le_add hi hj, (steps_add_of_next i j hsteps).trans hsteps', hu⟩

/-- One step, then the rest. -/
theorem ReachesWithin.of_step (hstep : step s = .next t) (h : ReachesWithin k t P) :
    ReachesWithin (k + 1) s P := by
  obtain ⟨j, u, hj, hsteps, hu⟩ := h
  exact ⟨j + 1, u, Nat.succ_le_succ hj, (steps_succ_of_next j hstep).trans hsteps, hu⟩

/-! ### A batch (R281) -/

/-- After an instruction of a batch that was enabled the batch is over by an error, is left by an entered
key wait, or goes on. -/
theorem afterInstruction_leaves_or_keeps_batch (hphase : s.phase = .batch) (hexit : s.exitRequested = false)
    (hwait : s.error ≠ none → s.wait = none) :
    s.afterInstruction.phase = .pacing ∨
    (s.afterInstruction.phase = .batch ∧ SchedulerInv s.afterInstruction ∧
      s.afterInstruction.batchLeft ≤ s.batchLeft) := by
  by_cases herr : s.error = none
  · by_cases hnone : s.wait = none
    · have henabled : s.enabled = true := State.enabled_iff.mpr ⟨herr, hexit, hnone⟩
      rw [State.afterInstruction_of_enabled henabled]
      exact .inr ⟨hphase, .of_batch hphase hnone fun _ => henabled, le_rfl⟩
    · rw [State.afterInstruction_of_wait herr hexit hnone]
      exact .inl rfl
  · rw [State.afterInstruction_of_error herr]
    exact .inr ⟨hphase, .of_batch hphase (hwait herr) fun hleft => absurd rfl hleft, Nat.zero_le _⟩

/-- Inside a batch a step comes to pacing, or stays in the batch with fewer instructions left. -/
theorem SchedulerInv.step_leaves_or_shortens_batch (hinv : SchedulerInv s) (hphase : s.phase = .batch) :
    ∃ t, step s = .next t ∧ t.cmdFifo = s.cmdFifo ∧
      (t.phase = .pacing ∨ (t.phase = .batch ∧ SchedulerInv t ∧ t.batchLeft < s.batchLeft)) := by
  cases hleft : s.batchLeft with
  | zero => exact ⟨s.endOfFrame, step_batch_over hphase hleft, rfl, .inl rfl⟩
  | succ n =>
    have henabled : s.enabled = true := hinv.batchEnabled hphase (by omega)
    obtain ⟨herr, hexit, hwait⟩ := State.enabled_iff.mp henabled
    obtain ⟨u, hu⟩ := executeInstruction_total { s with batchLeft := n }
    have hframe := executeInstruction_frame hu
    have huleft : u.batchLeft = n := congrArg (·.batchLeft) hframe
    have huwait (hne : u.error ≠ none) : u.wait = none :=
      (executeInstruction_wait_of_error_ne hu fun hsame => hne (hsame.trans herr)).trans hwait
    refine ⟨u.afterInstruction, step_batch_of_next hphase hleft henabled hu, ?_, ?_⟩
    · exact (congrArg (·.cmdFifo) u.afterInstruction_frame :).trans (congrArg (·.cmdFifo) hframe)
    · refine (afterInstruction_leaves_or_keeps_batch ((congrArg (·.phase) hframe).trans hphase)
        ((congrArg (·.exitRequested) hframe).trans hexit) huwait).imp_right ?_
      exact fun ⟨hbatch, hinv', hle⟩ => ⟨hbatch, hinv', by omega⟩

/-- The batch is over within its instructions and one step more. -/
theorem SchedulerInv.batch_reaches_pacing (hinv : SchedulerInv s) (hphase : s.phase = .batch) :
    ReachesWithin (s.batchLeft + 1) s fun t => t.phase = .pacing ∧ t.cmdFifo = s.cmdFifo := by
  induction hn : s.batchLeft using Nat.strong_induction_on generalizing s with
  | h n ih =>
    obtain ⟨t, hstep, hfifo, hpacing | ⟨hbatch, hinv', hlt⟩⟩ := hinv.step_leaves_or_shortens_batch hphase
    · exact (ReachesWithin.of_steps (steps_succ_of_next 0 hstep) ⟨hpacing, hfifo⟩).mono (by omega)
    · have hrest := ih t.batchLeft (hn ▸ hlt) hinv' hbatch rfl
      rw [hfifo] at hrest
      exact (hrest.of_step hstep).mono (by omega)

/-! ### The end of the loop (R280, R288) -/

theorem State.exitRequested_applyCommand (s : State) (c : Command) :
    (s.applyCommand c).exitRequested = (s.exitRequested || c = .exit) := by
  cases c with
  | exit => simp [State.applyCommand]
  | loadRom path =>
    show (s.loadRom path).exitRequested = _
    rcases s.loadRom_cases path with ⟨e, ht⟩ | ⟨b, -, -, ht⟩ <;> rw [ht] <;> simp
  | _ => simp [State.applyCommand]

theorem State.exitRequested_foldl_applyCommand (s : State) (l : List Command) :
    (l.foldl State.applyCommand s).exitRequested = (s.exitRequested || Command.exit ∈ l) := by
  induction l generalizing s with
  | nil => simp
  | cons c rest ih =>
    rw [List.foldl_cons, ih, State.exitRequested_applyCommand]
    simp [Bool.or_assoc, eq_comm]

theorem deciding_reaches_terminated (hphase : s.phase = .deciding) (hexit : s.exitRequested = true) :
    ReachesWithin 1 s fun t => t.phase = .terminated := by
  refine .of_steps (steps_succ_of_next 0 (step_deciding hphase)) ?_
  rw [State.decideStep_of_exit hexit]

/-! ### With an `Exit` in the queue, phase by phase backwards from the terminal check -/

section
variable {queue : List Command} (hexit : Command.exit ∈ queue) (hfifo : s.cmdFifo = queue)
include hexit hfifo

/-- The next drain is the last: it applies the `Exit`, and the terminal check follows. -/
theorem draining_reaches_terminated (hphase : s.phase = .draining) :
    ReachesWithin (queue.length + 2) s fun t => t.phase = .terminated := by
  subst hfifo
  have hdrain : ReachesWithin (s.cmdFifo.length + 1) s (· = s.drained) :=
    .of_steps (steps_drain hphase) rfl
  have hset : s.drained.exitRequested = true :=
    (s.exitRequested_foldl_applyCommand s.cmdFifo).trans (by simp [hexit])
  refine hdrain.trans (l := 1) fun t ht => ?_
  rw [ht]
  exact deciding_reaches_terminated rfl hset

theorem iterationStart_reaches_terminated (hphase : s.phase = .iterationStart) :
    ReachesWithin (queue.length + 3) s fun t => t.phase = .terminated :=
  (draining_reaches_terminated (s := s.beginIteration) hexit hfifo rfl).of_step
    (step_iterationStart hphase)

theorem pacing_reaches_terminated (hphase : s.phase = .pacing) :
    ReachesWithin (queue.length + 4) s fun t => t.phase = .terminated := by
  have hframe := s.paceStep_frame
  exact (iterationStart_reaches_terminated hexit ((congrArg (·.cmdFifo) hframe).trans hfifo)
    (congrArg (·.phase) hframe)).of_step (step_pacing hphase)

theorem batch_reaches_terminated (hinv : SchedulerInv s) (hphase : s.phase = .batch) :
    ReachesWithin (s.batchLeft + queue.length + 5) s fun t => t.phase = .terminated :=
  ((hinv.batch_reaches_pacing hphase).trans fun _ ⟨hpacing, hsame⟩ =>
    pacing_reaches_terminated hexit (hsame.trans hfifo) hpacing).mono (by omega)

/-- A poll goes to pacing, or into the rest of the batch. -/
theorem pollKeys_reaches_terminated (herr : s.error = none) (hset : s.exitRequested = false)
    (w : KeyWait) : ReachesWithin (w.remaining + queue.length + 5) (s.pollKeys w)
      fun t => t.phase = .terminated := by
  cases hkeys : pressedKeys s.keys w.prevKeys with
  | nil =>
    have hpolled := State.pollKeys_of_none_pressed hkeys
    exact (pacing_reaches_terminated hexit ((congrArg (·.cmdFifo) hpolled).trans hfifo)
      (congrArg (·.phase) hpolled)).mono (by omega)
  | cons k rest =>
    have hpolled := State.pollKeys_of_pressed hkeys
    have hleft : (s.pollKeys w).batchLeft = w.remaining := congrArg (·.batchLeft) hpolled
    have hinv : SchedulerInv (s.pollKeys w) := by
      rw [hpolled]
      exact .of_batch rfl rfl fun _ => State.enabled_iff.mpr ⟨herr, hset, rfl⟩
    exact hleft ▸ batch_reaches_terminated hexit ((congrArg (·.cmdFifo) hpolled).trans hfifo) hinv
      (congrArg (·.phase) hpolled)

/-- The terminal check ends the loop, goes to pacing, polls, or begins a batch. -/
theorem decideStep_reaches_terminated :
    ReachesWithin (s.opcodesPerFrame.toNat + (s.wait.map KeyWait.remaining).getD 0
      + queue.length + 5) s.decideStep fun t => t.phase = .terminated := by
  rcases s.step3_cases with hset | ⟨hset, hskip | ⟨herr, w, hwait⟩ | ⟨herr, hwait, hrun⟩⟩
  · rw [State.decideStep_of_exit hset]
    exact ⟨0, _, Nat.zero_le _, steps_zero _, rfl⟩
  · rw [State.decideStep_of_skip hset hskip]
    exact (pacing_reaches_terminated (s := { s with phase := .pacing }) hexit hfifo rfl).mono
      (by omega)
  · rw [State.decideStep_of_wait hset herr hwait, hwait, Option.map_some, Option.getD_some]
    exact (pollKeys_reaches_terminated hexit hfifo herr hset w).mono (by omega)
  · rw [State.decideStep_of_run hset herr hwait hrun]
    have hinv : SchedulerInv { s with phase := .batch, batchLeft := s.opcodesPerFrame.toNat } :=
      .of_batch rfl hwait fun _ => State.enabled_iff.mpr ⟨herr, hset, hwait⟩
    exact (batch_reaches_terminated hexit (by exact hfifo) hinv rfl).mono (by dsimp only; omega)

end

theorem SchedulerInv.reaches_terminated (hinv : SchedulerInv s) (hphase : s.phase ≠ .terminated)
    (hexit : Command.exit ∈ s.cmdFifo) :
    ReachesWithin (s.batchLeft + s.opcodesPerFrame.toNat + (s.wait.map KeyWait.remaining).getD 0
      + s.cmdFifo.length + 8) s fun t => t.phase = .terminated := by
  cases hp : s.phase with
  | iterationStart => exact (iterationStart_reaches_terminated hexit rfl hp).mono (by omega)
  | draining => exact (draining_reaches_terminated hexit rfl hp).mono (by omega)
  | deciding =>
    exact ((decideStep_reaches_terminated hexit rfl).of_step (step_deciding hp)).mono (by omega)
  | batch => exact (batch_reaches_terminated hexit rfl hinv hp).mono (by omega)
  | pacing => exact (pacing_reaches_terminated hexit rfl hp).mono (by omega)
  | terminated => exact absurd hp hphase

/-! ### An idle iteration (R284, R329) -/

/-- Three steps: the clock reading, an empty drain, and a terminal check that finds nothing to do. -/
theorem steps_idle (hphase : s.phase = .iterationStart) (hfifo : s.cmdFifo = [])
    (hexit : s.exitRequested = false)
    (hidle : s.error ≠ none ∨ (s.wait = none ∧ s.running = false ∧ s.stepOnce = false)) :
    steps 3 s = .next { s.beginIteration with phase := .pacing } := by
  have hdrain : step s.beginIteration = .next { s.beginIteration with phase := .deciding } := by
    rw [step_draining rfl, State.drainStep_of_nil (s := s.beginIteration) hfifo]
    rfl
  have hdecide : step { s.beginIteration with phase := .deciding }
      = .next { s.beginIteration with phase := .pacing } := by
    rw [step_deciding rfl, State.decideStep_of_skip
      (s := { s.beginIteration with phase := .deciding }) hexit hidle]
  rw [steps_succ_of_next 2 (step_iterationStart hphase), steps_succ_of_next 1 hdrain,
    steps_succ_of_next 0 hdecide, steps_zero]

end

end Sys2Proof.Machine

namespace Sys2Proof.Proofs

open Machine

/-- Settles O46: by strong induction on the count: a step of a batch ends it, leaves it, or lowers the
count. -/
theorem batchEndsWithinItsCount : Obligations.BatchEndsWithinItsCount := by
  unfold Obligations.BatchEndsWithinItsCount
  exact fun _ hinv hphase => hinv.batch_reaches_pacing hphase

/-- Settles O48: by the phase of the scheduler's loop, each leading to the next drain. -/
theorem exitTerminatesWithinOneIteration : Obligations.ExitTerminatesWithinOneIteration := by
  unfold Obligations.ExitTerminatesWithinOneIteration
  intro s hinv hphase hexit
  obtain ⟨k, t, hk, hsteps, ht⟩ := hinv.reaches_terminated hphase hexit
  exact ⟨k, t, hsteps, ht, hk⟩

/-- Settles O47: three steps come to pacing, and a pacing that is stopped zeroes the instrumentation. -/
theorem idleIterationChangesOnlyTimesAndInstrumentation :
    Obligations.IdleIterationChangesOnlyTimesAndInstrumentation := by
  unfold Obligations.IdleIterationChangesOnlyTimesAndInstrumentation
  intro s hphase hfifo hexit hidle
  have hstopped : s.running = false ∨ s.error ≠ none := hidle.symm.imp_left fun h => h.2.1
  have hframe := State.paceStep_frame_of_stopped (s := { s.beginIteration with phase := .pacing })
    hstopped
  refine ⟨_, (steps_add_of_next 3 1 (steps_idle hphase hfifo hexit hidle)).trans
    (steps_succ_of_next 0 (step_pacing rfl)), ?_⟩
  rw [hphase]
  exact hframe

end Sys2Proof.Proofs

/-! ## When the snapshot register changes (spec/46_control_plane.md R279, R281 to R283, R291) -/

namespace Sys2Proof.Machine

section
variable {s t : State}

/-- A drain step publishes at the end of a drain that applied a command, and only there. -/
theorem State.snapshot_drainStep (s : State) :
    s.drainStep.snapshot = s.snapshot ∨
      (s.cmdFifo = [] ∧ 0 < s.applied ∧ s.drainStep.snapshot = ⟨s.toMachineState, s.wait.isSome⟩) := by
  cases hfifo : s.cmdFifo with
  | cons c rest =>
    rw [State.drainStep_of_cons hfifo]
    exact .inl (congrArg (·.snapshot) (State.applyCommand_frame _ c))
  | nil =>
    rw [State.drainStep_of_nil hfifo]
    by_cases happlied : 0 < s.applied
    · exact .inr ⟨rfl, happlied, if_pos happlied⟩
    · exact .inl (if_neg happlied)

/-- Step 2 and the choice of step 3 publish in a poll that found no press, and only there. -/
theorem State.snapshot_decideStep (s : State) :
    s.decideStep.snapshot = s.snapshot ∨
      (s.wait.isSome = true ∧ s.decideStep.snapshot = ⟨s.decideStep.toMachineState, true⟩ ∧
        s.decideStep.wait.isSome = true) := by
  rcases s.step3_cases with hset | ⟨hset, hskip | ⟨herr, w, hwait⟩ | ⟨herr, hwait, hrun⟩⟩
  · rw [State.decideStep_of_exit hset]
    exact .inl rfl
  · rw [State.decideStep_of_skip hset hskip]
    exact .inl rfl
  · rw [State.decideStep_of_wait hset herr hwait]
    cases hkeys : pressedKeys s.keys w.prevKeys with
    | nil =>
      rw [State.pollKeys_of_none_pressed hkeys, hwait]
      exact .inr ⟨rfl, rfl, rfl⟩
    | cons k rest =>
      rw [State.pollKeys_of_pressed hkeys]
      exact .inl rfl
  · rw [State.decideStep_of_run hset herr hwait hrun]
    exact .inl rfl

/-- What follows an instruction publishes when a key wait was entered, and only then. -/
theorem State.snapshot_afterInstruction (s : State) :
    s.afterInstruction.snapshot = s.snapshot ∨
      (s.afterInstruction.snapshot = ⟨s.afterInstruction.toMachineState, true⟩ ∧
        s.afterInstruction.wait.isSome = true) := by
  unfold State.afterInstruction
  split
  · exact .inl rfl
  · split
    · next hwait => exact .inr ⟨congrArg (Snapshot.mk s.toMachineState) hwait, hwait⟩
    · exact .inl rfl

/-- A round of a batch publishes at the end of the frame and when an instruction entered a key wait, and
only there. -/
theorem State.snapshot_batchStep (h : s.batchStep = .next t) :
    t.snapshot = s.snapshot ∨
      (s.batchLeft = 0 ∧
        t.snapshot = ⟨{ s.toMachineState with dt := t.dt, st := t.st }, s.wait.isSome⟩) ∨
      (s.batchLeft ≠ 0 ∧ t.snapshot = ⟨t.toMachineState, true⟩ ∧ t.wait.isSome = true) := by
  rcases State.batchStep_eq_next h with ⟨hover, rfl⟩ | ⟨hleft, -, u, hu, rfl⟩
  · exact .inr (.inl ⟨hover, rfl⟩)
  · have hsame : u.snapshot = s.snapshot := congrArg (·.snapshot) (executeInstruction_frame hu)
    exact u.snapshot_afterInstruction.imp (·.trans hsame) fun hentered => .inr ⟨hleft, hentered⟩

end

end Sys2Proof.Machine

namespace Sys2Proof.Proofs

open Machine

/-- Settles O49: by the phase of the scheduler's loop. -/
theorem snapshotChangesOnlyAtPublishPoints : Obligations.SnapshotChangesOnlyAtPublishPoints := by
  unfold Obligations.SnapshotChangesOnlyAtPublishPoints
  intro s t hstep
  cases hphase : s.phase with
  | iterationStart => rw [step_iterationStart hphase] at hstep; cases hstep; exact .inl rfl
  | draining =>
    rw [step_draining hphase] at hstep; cases hstep
    exact s.snapshot_drainStep.imp_right fun hended => .inl ⟨rfl, hended⟩
  | deciding =>
    rw [step_deciding hphase] at hstep; cases hstep
    exact s.snapshot_decideStep.imp_right fun hpolled => .inr (.inr (.inr ⟨rfl, hpolled⟩))
  | batch =>
    rw [step_batch hphase] at hstep
    exact (State.snapshot_batchStep hstep).imp_right fun hpublished => .inr (hpublished.imp
      (⟨rfl, ·⟩) fun hentered => .inl ⟨rfl, hentered⟩)
  | pacing =>
    rw [step_pacing hphase] at hstep; cases hstep
    exact .inl (congrArg (·.snapshot) s.paceStep_frame)
  | terminated => rw [step_terminated hphase] at hstep; cases hstep

end Sys2Proof.Proofs

/-! ## What does not depend on time (spec/46_control_plane.md R295)

Forgetting the time commutes with every action that does not read the clock; the two that do read it write
what they read into fields that `State.forgetTime` forgets, and into no other. -/

namespace Sys2Proof.Machine

section
variable {s s' t u : State} {r r' : Except EngineError State}

/-! ### Instructions -/

theorem finish_forgetTime (h : r' = r.map State.forgetTime) :
    finish s.forgetTime r' = andThen (finish s r) State.forgetTime := by
  subst h
  cases r with
  | ok u => rfl
  | error e => rfl

theorem finish_access_forgetTime {i : Instr} {f : Option (Nat × FaultKind)} (h : u = t.forgetTime) :
    finish s.forgetTime (s.forgetTime.access i f u)
      = andThen (finish s (s.access i f t)) State.forgetTime := by
  subst h
  rcases f with - | ⟨a, k⟩
  · rfl
  · rfl

theorem State.skipIf_forgetTime (s : State) (c : Bool) :
    s.forgetTime.skipIf c = (s.skipIf c).forgetTime := by
  rw [State.skipIf_eq, State.skipIf_eq]
  rfl

theorem State.popToPc_forgetTime (s : State) :
    s.forgetTime.popToPc = s.popToPc.map State.forgetTime := by
  rcases List.eq_nil_or_concat' s.callStack with hempty | ⟨rest, a, hconcat⟩
  · rw [State.popToPc_of_empty hempty, State.popToPc_of_empty (s := s.forgetTime) hempty]
    rfl
  · rw [State.popToPc_of_concat hconcat, State.popToPc_of_concat (s := s.forgetTime) hconcat]
    rfl

theorem exec_op2NNN_forgetTime (s : State) (nnn : BitVec 12) :
    exec (.op2NNN nnn) s.forgetTime = andThen (exec (.op2NNN nnn) s) State.forgetTime := by
  cases hfull : s.stackFull with
  | true => rw [exec_op2NNN_of_full hfull, exec_op2NNN_of_full (s := s.forgetTime) hfull]; rfl
  | false => rw [exec_op2NNN_of_room hfull, exec_op2NNN_of_room (s := s.forgetTime) hfull]; rfl

theorem State.addToI_forgetTime (s : State) (x : Reg) :
    s.forgetTime.addToI x = (s.addToI x).map State.forgetTime := by
  unfold State.addToI
  dsimp only
  rw [apply_ite (Except.map State.forgetTime)]
  rfl

theorem State.skipIfKey_forgetTime (s : State) (i : Instr) (x : Reg) (wanted : Bool) :
    s.forgetTime.skipIfKey i x wanted = (s.skipIfKey i x wanted).map State.forgetTime := by
  have hsame : s.forgetTime.keyIndex x = s.keyIndex x := rfl
  rw [State.skipIfKey, State.skipIfKey, hsame]
  cases s.keyIndex x with
  | none => rfl
  | some k => exact congrArg Except.ok (s.skipIf_forgetTime _)

/-- No instruction reads time: the arms that can take an error or skip by their shared operation, each
other arm by the update it is. -/
theorem exec_forgetTime (i : Instr) (s : State) :
    exec i s.forgetTime = andThen (exec i s) State.forgetTime := by
  cases i with
  | op00EE => exact finish_forgetTime s.popToPc_forgetTime
  | op2NNN nnn => exact exec_op2NNN_forgetTime s nnn
  | op3XNN | op4XNN | op5XY0 | op9XY0 => exact congrArg _ (s.skipIf_forgetTime _)
  | opEX9E x | opEXA1 x => exact finish_forgetTime (s.skipIfKey_forgetTime _ x _)
  | opFX1E x => exact finish_forgetTime (s.addToI_forgetTime x)
  | opDXYN | opFX33 | opFX55 | opFX65 => exact finish_access_forgetTime rfl
  | _ => rfl

/-- Neither do fetch, advance and decode (R120 to R122). -/
theorem executeInstruction_forgetTime (s : State) :
    executeInstruction s.forgetTime = andThen (executeInstruction s) State.forgetTime := by
  cases hfetch : s.fetch with
  | error e =>
    rw [executeInstruction_of_fetch_error hfetch,
      executeInstruction_of_fetch_error (s := s.forgetTime) hfetch]
    rfl
  | ok w =>
    cases hdecode : decode w with
    | error e =>
      rw [executeInstruction_of_decode_error hfetch hdecode,
        executeInstruction_of_decode_error (s := s.forgetTime) hfetch hdecode]
      rfl
    | ok i =>
      rw [executeInstruction_of_decode_ok hfetch hdecode,
        executeInstruction_of_decode_ok (s := s.forgetTime) hfetch hdecode]
      exact exec_forgetTime i s.advance

/-! ### The actions of the scheduler -/

theorem State.applyCommand_forgetTime (s : State) (c : Command) :
    s.forgetTime.applyCommand c = (s.applyCommand c).forgetTime := by
  cases c with
  | loadRom path =>
    cases hreply : s.romReply path with
    | ioError e =>
      rw [State.applyCommand_loadRom_of_ioError hreply,
        State.applyCommand_loadRom_of_ioError (s := s.forgetTime) hreply]
      rfl
    | bytes b =>
      rcases Nat.lt_or_ge 3584 b.length with hlong | hfits
      · rw [State.applyCommand_loadRom_of_tooLong hreply hlong,
          State.applyCommand_loadRom_of_tooLong (s := s.forgetTime) hreply hlong]
        rfl
      · rw [State.applyCommand_loadRom_of_fits hreply hfits,
          State.applyCommand_loadRom_of_fits (s := s.forgetTime) hreply hfits]
        rfl
  | _ => rfl

theorem State.drainStep_forgetTime (s : State) :
    s.forgetTime.drainStep = s.drainStep.forgetTime := by
  cases hfifo : s.cmdFifo with
  | nil =>
    rw [State.drainStep_of_nil hfifo, State.drainStep_of_nil (s := s.forgetTime) hfifo]
    by_cases happlied : 0 < s.applied
    · rw [if_pos happlied, if_pos (show 0 < s.forgetTime.applied from happlied)]
      rfl
    · rw [if_neg happlied, if_neg (show ¬0 < s.forgetTime.applied from happlied)]
      rfl
  | cons c rest =>
    rw [State.drainStep_of_cons hfifo, State.drainStep_of_cons (s := s.forgetTime) hfifo]
    exact State.applyCommand_forgetTime { s with cmdFifo := rest, applied := s.applied + 1 } c

theorem State.pollKeys_forgetTime (s : State) (w : KeyWait) :
    s.forgetTime.pollKeys w = (s.pollKeys w).forgetTime := by
  cases hkeys : pressedKeys s.keys w.prevKeys with
  | nil =>
    rw [State.pollKeys_of_none_pressed hkeys,
      State.pollKeys_of_none_pressed (s := s.forgetTime) hkeys]
    rfl
  | cons k rest =>
    rw [State.pollKeys_of_pressed hkeys, State.pollKeys_of_pressed (s := s.forgetTime) hkeys]
    rfl

theorem State.decideStep_forgetTime (s : State) :
    s.forgetTime.decideStep = s.decideStep.forgetTime := by
  rcases s.step3_cases with hset | ⟨hset, hskip | ⟨herr, w, hwait⟩ | ⟨herr, hwait, hrun⟩⟩
  · rw [State.decideStep_of_exit hset, State.decideStep_of_exit (s := s.forgetTime) hset]
    rfl
  · rw [State.decideStep_of_skip hset hskip, State.decideStep_of_skip (s := s.forgetTime) hset hskip]
    rfl
  · rw [State.decideStep_of_wait hset herr hwait,
      State.decideStep_of_wait (s := s.forgetTime) hset herr hwait]
    exact s.pollKeys_forgetTime w
  · rw [State.decideStep_of_run hset herr hwait hrun,
      State.decideStep_of_run (s := s.forgetTime) hset herr hwait hrun]
    rfl

theorem State.afterInstruction_forgetTime (s : State) :
    s.forgetTime.afterInstruction = s.afterInstruction.forgetTime := by
  unfold State.afterInstruction
  rw [apply_ite State.forgetTime, apply_ite State.forgetTime]
  rfl

/-- In a batch the step commutes with forgetting the time: at its end, where it is refused, and where it
runs an instruction. -/
theorem step_batch_forgetTime (hphase : s.phase = .batch) :
    step s.forgetTime = andThen (step s) State.forgetTime := by
  cases hleft : s.batchLeft with
  | zero =>
    rw [step_batch_over hphase hleft, step_batch_over (s := s.forgetTime) hphase hleft]
    rfl
  | succ n =>
    cases henabled : s.enabled with
    | false =>
      have hne : s.batchLeft ≠ 0 := by omega
      rw [step_batch_refused hphase hne henabled,
        step_batch_refused (s := s.forgetTime) hphase hne henabled]
      rfl
    | true =>
      obtain ⟨u, hu⟩ := executeInstruction_total { s with batchLeft := n }
      have hforgot := executeInstruction_forgetTime { s with batchLeft := n }
      rw [hu] at hforgot
      rw [step_batch_of_next hphase hleft henabled hu,
        step_batch_of_next (s := s.forgetTime) hphase hleft henabled hforgot]
      exact congrArg _ u.afterInstruction_forgetTime

/-- Pacing differs by the time it forgets only in the count of frames, which goes by `running` and the
error register. -/
theorem State.paceStep_forgetTime (s : State) :
    s.forgetTime.paceStep.forgetTime = s.paceStep.forgetTime := by
  have hframes : s.forgetTime.paceStep.currentFrame = s.paceStep.currentFrame := by
    rcases s.running_or_stopped with ⟨hrun, herr⟩ | hstopped
    · rw [State.paceStep_of_running hrun herr, State.paceStep_of_running (s := s.forgetTime) hrun herr]
      exact (congrArg (·.currentFrame) s.forgetTime.paced_frame).trans
        (congrArg (·.currentFrame) s.paced_frame).symm
    · rw [State.paceStep_of_stopped hstopped, State.paceStep_of_stopped (s := s.forgetTime) hstopped]
  calc s.forgetTime.paceStep.forgetTime
      = { s.forgetTime with
          currentFrame := s.forgetTime.paceStep.currentFrame, phase := .iterationStart } :=
        congrArg State.forgetTime s.forgetTime.paceStep_frame
    _ = { s.forgetTime with currentFrame := s.paceStep.currentFrame, phase := .iterationStart } := by
        rw [hframes]
    _ = s.paceStep.forgetTime := (congrArg State.forgetTime s.paceStep_frame).symm

theorem andThen_eq_fault {o : Host.Outcome State Fault Refusal} {f : State → State} {r : Fault} :
    andThen o f = .fault r ↔ o = .fault r := by
  cases o with
  | next t => exact iff_of_false nofun nofun
  | fault q => rfl
  | refused q => exact iff_of_false nofun nofun

theorem andThen_eq_refused {o : Host.Outcome State Fault Refusal} {f : State → State} {r : Refusal} :
    andThen o f = .refused r ↔ o = .refused r := by
  cases o with
  | next t => exact iff_of_false nofun nofun
  | fault q => exact iff_of_false nofun nofun
  | refused q => rfl

/-- Forgetting the time before a step as well as after it changes nothing. -/
theorem step_forgetTime (s : State) :
    andThen (step s.forgetTime) State.forgetTime = andThen (step s) State.forgetTime := by
  cases hphase : s.phase with
  | iterationStart =>
    rw [step_iterationStart hphase, step_iterationStart (s := s.forgetTime) hphase]
    rfl
  | draining =>
    rw [step_draining hphase, step_draining (s := s.forgetTime) hphase, s.drainStep_forgetTime]
    rfl
  | deciding =>
    rw [step_deciding hphase, step_deciding (s := s.forgetTime) hphase, s.decideStep_forgetTime]
    rfl
  | batch =>
    rw [step_batch_forgetTime hphase]
    cases step s with
    | next t => rfl
    | fault r => rfl
    | refused r => rfl
  | pacing =>
    rw [step_pacing hphase, step_pacing (s := s.forgetTime) hphase]
    exact congrArg _ s.paceStep_forgetTime
  | terminated =>
    rw [step_terminated hphase, step_terminated (s := s.forgetTime) hphase]

end

end Sys2Proof.Machine

namespace Sys2Proof.Proofs

open Machine

/-- Settles O50: forgetting the time before a step changes nothing that is left after forgetting it again, so
states that forget to the same step to the same, or stop alike. -/
theorem behaviourDoesNotDependOnTime : Obligations.BehaviourDoesNotDependOnTime := by
  unfold Obligations.BehaviourDoesNotDependOnTime
  intro s s' hsame
  have hstep : andThen (step s) State.forgetTime = andThen (step s') State.forgetTime := by
    rw [← step_forgetTime s, hsame, step_forgetTime s']
  refine ⟨fun t ht => ?_, fun r hr => ?_, fun r hr => ?_⟩
  · rw [ht] at hstep
    exact andThen_eq_next hstep.symm
  · rw [hr] at hstep
    exact andThen_eq_fault.mp hstep.symm
  · rw [hr] at hstep
    exact andThen_eq_refused.mp hstep.symm

end Sys2Proof.Proofs

/-! ## Errors and the control plane (spec/60_exceptions.md R310, R319, R321, R324) -/

namespace Sys2Proof.Machine

/-- t has the error register of s, and those fields of s that only instructions and the poll of a key wait
write. -/
def HeldByError (s t : State) : Prop :=
  t = { t with error := s.error, v := s.v, i := s.i, pc := s.pc, callStack := s.callStack, fb := s.fb,
               randIn := s.randIn }

section
variable {s t : State}

/-- A set error register keeps its value when a further error is raised (R319). -/
theorem State.error_raiseError_of_ne_none (herr : s.error ≠ none) (e : EngineError) :
    (s.raiseError e).error = s.error := by
  obtain ⟨e₀, he₀⟩ := Option.ne_none_iff_exists'.mp herr
  rw [State.raiseError_of_some he₀]

/-- Of the commands only a failed `LoadRom` raises an error, and it finds the register set. -/
theorem State.error_applyCommand_of_ne_none (herr : s.error ≠ none) (c : Command) :
    (s.applyCommand c).error = s.error := by
  cases c with
  | loadRom path =>
    show (s.loadRom path).error = s.error
    rcases s.loadRom_cases path with ⟨e, ht⟩ | ⟨b, -, -, ht⟩ <;> rw [ht]
    · exact State.error_raiseError_of_ne_none (s := s.requestRom path) herr e
    · rfl
  | _ => rfl

theorem HeldByError.applyCommand (herr : s.error ≠ none) (c : Command) :
    HeldByError s (s.applyCommand c) := by
  rw [HeldByError, ← State.error_applyCommand_of_ne_none herr c, s.applyCommand_frame c]

theorem HeldByError.drainStep (herr : s.error ≠ none) : HeldByError s s.drainStep := by
  cases hfifo : s.cmdFifo with
  | cons c rest =>
    rw [State.drainStep_of_cons hfifo]
    exact applyCommand (s := { s with cmdFifo := rest, applied := s.applied + 1 }) herr c
  | nil => rw [State.drainStep_of_nil hfifo]; rfl

/-- A requested exit ends the loop; else the error skips step 3, so neither a poll nor a batch follows. -/
theorem HeldByError.decideStep (herr : s.error ≠ none) : HeldByError s s.decideStep := by
  cases hexit : s.exitRequested with
  | true => rw [State.decideStep_of_exit hexit]; rfl
  | false => rw [State.decideStep_of_error hexit herr]; rfl

/-- The instruction step is not enabled, so a batch goes on only to the end of its frame (R281). -/
theorem HeldByError.batchStep (herr : s.error ≠ none) (hstep : s.batchStep = .next t) :
    HeldByError s t := by
  rcases State.batchStep_eq_next hstep with ⟨-, rfl⟩ | ⟨-, henabled, -⟩
  · rfl
  · exact absurd (State.enabled_iff.mp henabled).1 herr

theorem HeldByError.paceStep (s : State) : HeldByError s s.paceStep := by
  rw [HeldByError, s.paceStep_frame]

/-- Once an error is set every step holds them, phase by phase of the scheduler's loop. -/
theorem HeldByError.step (herr : s.error ≠ none) (hstep : step s = .next t) : HeldByError s t := by
  cases hphase : s.phase with
  | iterationStart => rw [step_iterationStart hphase] at hstep; cases hstep; rfl
  | draining => rw [step_draining hphase] at hstep; cases hstep; exact drainStep herr
  | deciding => rw [step_deciding hphase] at hstep; cases hstep; exact decideStep herr
  | batch => rw [step_batch hphase] at hstep; exact batchStep herr hstep
  | pacing => rw [step_pacing hphase] at hstep; cases hstep; exact paceStep s
  | terminated => rw [step_terminated hphase] at hstep; cases hstep

end

end Sys2Proof.Machine

namespace Sys2Proof.Proofs

open Machine

/-- Settles O52: by the phase of the scheduler's loop. The invariant is not used: without it a batch with
instructions left is refused, and a refusal answers no next state. -/
theorem errorIsTerminal : Obligations.ErrorIsTerminal := by
  unfold Obligations.ErrorIsTerminal
  intro s t e _ herr hstep
  have hheld : HeldByError s t := .step (by simp [herr]) hstep
  rw [hheld]
  exact ⟨herr, rfl, rfl, rfl, rfl, rfl, rfl⟩

/-- Settles O56: the frame that every instruction shares. -/
theorem noInstructionReachesTheControlPlane : Obligations.NoInstructionReachesTheControlPlane := by
  unfold Obligations.NoInstructionReachesTheControlPlane
  exact fun _ _ _ => exec_frame

/-- Settles O53: an arm either ends by `finish`, which answers a next state, or is one. -/
theorem everyInstructionAnswersANextState : Obligations.EveryInstructionAnswersANextState := by
  unfold Obligations.EveryInstructionAnswersANextState
  exact exec_total

end Sys2Proof.Proofs

/-! ## Reset and start (spec/70_reset_and_hazards.md R350, R351) -/

namespace Sys2Proof.Machine

/-! ### What a fresh engine reads as -/

section
variable (c : Config)

/-- Nothing is written yet, so every address reads as its reset contents (R67). -/
theorem State.readByte_construct (a : Nat) :
    (State.construct c).readByte a = Memory.blank c.font a := rfl

theorem State.readV_construct (r : Reg) : (State.construct c).readV r = 0x00#8 :=
  Vector.getElem_replicate r.isLt

theorem State.keyDown_construct (k : Fin 16) : (State.construct c).keyDown k = false :=
  Vector.getElem_replicate k.isLt

theorem State.pixel_construct (x y : Nat) : (State.construct c).fb.pixel x y = false :=
  Framebuffer.pixel_blank c.fbWidth c.fbHeight x y

end

/-! ### From construction to the first batch -/

/-- A fresh engine with one command in its queue. -/
def State.queued (c : Config) (cmd : Command) : State :=
  { State.construct c with cmdFifo := [cmd] }

/-- That engine at the start of its first batch. -/
def State.started (c : Config) (cmd : Command) : State :=
  { (State.queued c cmd).beginIteration.drained with phase := .batch, batchLeft := c.opfInit.toNat }

section
variable {c : Config} {cmd : Command} (hstart : cmd = .setRunning true ∨ cmd = .stepFrame)
include hstart

/-- The clock reading, a drain of one command, and a terminal check that finds a batch to run. -/
theorem steps_queued : steps 4 (State.queued c cmd) = .next (State.started c cmd) := by
  have hdrain : steps 2 (State.queued c cmd).beginIteration
      = .next (State.queued c cmd).beginIteration.drained :=
    steps_drain (s := (State.queued c cmd).beginIteration) rfl
  have hdecide : (State.queued c cmd).beginIteration.drained.decideStep = State.started c cmd := by
    rcases hstart with rfl | rfl
    · exact State.decideStep_of_run rfl rfl rfl (.inl rfl)
    · exact State.decideStep_of_run rfl rfl rfl (.inr rfl)
  rw [steps_succ_of_next 3 (step_iterationStart rfl), steps_add_of_next 2 1 hdrain,
    steps_succ_of_next 0 (step_deciding rfl), steps_zero, hdecide]

theorem State.started_enabled : (State.started c cmd).enabled = true := by
  rcases hstart with rfl | rfl <;> rfl

theorem State.started_pc : (State.started c cmd).pc = 0x200#16 := by
  rcases hstart with rfl | rfl <;> rfl

theorem State.started_fetch : (State.started c cmd).fetch
    = .ok (wordOfBytes ((State.started c cmd).readByte 0x200)
        ((State.started c cmd).readByte 0x201)) := by
  rw [State.fetch_eq_ok, State.started_pc hstart]
  exact ⟨by decide, rfl⟩

end

end Sys2Proof.Machine

namespace Sys2Proof.Proofs

open Machine

/-- Settles O7: an unwritten memory reads as its reset contents, the framebuffer is the blank grid, the
registers and keys are replicated, and every other element is the value it was constructed with. -/
theorem constructionLeavesResetValues : Obligations.ConstructionLeavesResetValues := by
  unfold Obligations.ConstructionLeavesResetValues
  refine ⟨rfl, fun c => ⟨fun a ha => ?_, fun a ha _ => ?_, State.readV_construct c, rfl, rfl, rfl, rfl,
    rfl, State.pixel_construct c, State.keyDown_construct c, ?_⟩⟩
  · rw [State.readByte_construct, Memory.blank, dif_pos ha]
  · rw [State.readByte_construct, Memory.blank, dif_neg (Nat.not_lt.mpr ha)]
  · and_intros <;> rfl

/-- Settles O8: four steps lead to the first batch, where PC is still the entry point. -/
theorem firstInstructionIsTheWordAtEntryPoint :
    Obligations.FirstInstructionIsTheWordAtEntryPoint := by
  unfold Obligations.FirstInstructionIsTheWordAtEntryPoint
  exact fun c cmd hstart => ⟨State.started c cmd, steps_queued hstart, rfl, rfl,
    State.started_enabled hstart, State.started_pc hstart, State.started_fetch hstart⟩

/-- Settles O58: the reset state is the engine constructed with the default parameters. -/
theorem constructionSatisfiesTheInvariant : Obligations.ConstructionSatisfiesTheInvariant := by
  unfold Obligations.ConstructionSatisfiesTheInvariant
  exact ⟨.construct defaultConfig, .construct⟩

end Sys2Proof.Proofs
